-- ==== Sys2Proof/Word.lean ====
section
/-! DEFINITION. The byte and the pixel: the two data types every other file is written in. -/

namespace Sys2Proof

/-- A byte of 8 bits, bit 7 the most significant (R10). -/
abbrev Byte := BitVec 8

/-- A pixel: "a 4-tuple (r, g, b, a), each an 8-bit unsigned channel value" (R13).
Two pixels are equal when all four channels are. -/
structure Pixel where
  r : Byte
  g : Byte
  b : Byte
  a : Byte
deriving DecidableEq, Repr

end Sys2Proof
end

