-- ==== Sys2Proof/Config.lean ====
section
/-! DEFINITION. The four parameters the spec leaves to the implementation (R8). -/

namespace Sys2Proof

/-- RUN_OVERSHOOT: what a run longer than the remaining pixel budget does (R8, R174). -/
inductive RunOvershoot where
  /-- emit exactly the remaining pixels and drop the rest -/
  | clip
  /-- raise PixelCountMismatch before any pixel of the run -/
  | fail
deriving DecidableEq, Repr

/-- A width in bits. R8 types CNT_W and POS_W as positive integers, so a width is one bit and `more`
further ones: no width of 0 bits can be written (log entry 2). -/
structure BitWidth where
  more : Nat
deriving DecidableEq, Repr

/-- The number of bits. -/
def BitWidth.bits (w : BitWidth) : Nat := w.more + 1

/-- The open parameters of R8. They never change while the block runs; a statement about every
state holds for every value of them (log entry 2). -/
structure Config where
  /-- CNT_W: width in bits of TOTAL and COUNT -/
  cntW : BitWidth
  /-- POS_W: width in bits of the read cursor; `none` is the unbounded cursor -/
  posW : Option BitWidth
  /-- RUN_OVERSHOOT -/
  runOvershoot : RunOvershoot
  /-- RUN_CACHE_WRITE: whether a run chunk writes PX into the cache -/
  runCacheWrite : Bool
deriving DecidableEq, Repr

/-- The values the spec uses in its own examples (R8, column "spec's value"): CNT_W is 64. -/
def Config.specValues : Config where
  cntW := ⟨63⟩
  posW := none
  runOvershoot := .clip
  runCacheWrite := true

end Sys2Proof
end

