-- ==== Sys2Proof/Machine/State.lean ====
section
/-! DEFINITION. The state of the block as plain data: every row of R20, the bound input (R37), the host's
ports as they stand (R62, R218), the parameters (R8); the stops; the state after reset (R39). -/

namespace Sys2Proof.Machine

/-- The states of the finite-state machine (R32). -/
inductive Fsm where
  /-- after hardware reset; nothing started -/
  | idle
  /-- file mode started; header not yet parsed -/
  | header
  /-- chunk loop running -/
  | decode
  /-- COUNT = TOTAL; OUT is complete and valid -/
  | done
  /-- a decode error was raised; ERR holds its code -/
  | error
deriving DecidableEq, Repr

/-- The error codes (R33). -/
inductive ErrCode where
  | none | badMagic | invalidDimensions | invalidChannels | truncated | pixelCountMismatch
deriving DecidableEq, Repr

/-- The input space IN (R50, R51): `size` bytes (the spec's N) at offsets 0 to `size - 1`. `cells`
lists the offsets whose byte is not 0x00, strictly rising (log entry 1). -/
structure Memory where
  cells : List Host.Cell
  size : Nat
deriving DecidableEq, Repr

/-- What the host can do to the block (the first three rows of R218), with what it supplies. -/
inductive HostMove where
  /-- `rst` (R211) -/
  | hardwareReset
  /-- `start_file` with the bytes of a QOI file (R121) -/
  | startFile (bytes : List Byte)
  /-- `start_core` with the configuration ports and the chunk bytes (R122) -/
  | startCore (width height : BitVec 32) (channels colorspace : Byte) (bytes : List Byte)
deriving DecidableEq, Repr

structure State where
  /-- PX, the previous-pixel register (R21) -/
  px : Pixel
  /-- CACHE, the colour history (R24) -/
  cache : Vector Pixel 64
  /-- POS, the read cursor (R27; log entry 3) -/
  pos : Nat
  /-- WIDTH (R28) -/
  width : BitVec 32
  /-- HEIGHT (R28) -/
  height : BitVec 32
  /-- CHANNELS (R28) -/
  channels : Byte
  /-- COLORSPACE (R28) -/
  colorspace : Byte
  /-- TOTAL, the number of pixels to produce (R29; log entry 4) -/
  total : Nat
  /-- COUNT, the number of pixels emitted (R30; log entry 4) -/
  count : Nat
  /-- RUN, the repetitions still owed (R31) -/
  run : BitVec 6
  /-- STATE (R32) -/
  fsm : Fsm
  /-- ERR (R33) -/
  err : ErrCode
  /-- CS_NONSTD (R34) -/
  csNonstd : Bool
  /-- OUT, the bytes emitted since the last start (R36) -/
  out : List Byte
  /-- IN and N, as bound by the last start (R37; log entry 1) -/
  input : Memory
  /-- the host's ports before the next step: what it asks for, if anything (R62, R218; log entry 5) -/
  request : Option HostMove
  /-- the parameters of this block (R8; log entry 2) -/
  cfg : Config
deriving DecidableEq, Repr

/-- The faults. A decode error is NOT one: it is a next state (R190). -/
inductive Fault where
  /-- Raised by the meaning of an instruction when `exec` is asked to run it in a STATE that does not
  enable it ("any (state, event) pair not listed has no transition", R120; `require`, R101, R123).
  Safe: `step` never asks for it (log entry 8). -/
  | notEnabled
deriving DecidableEq, Repr

/-- The refusals. -/
inductive Refusal where
  /-- Raised by the arm of an instruction that has no meaning yet; none is left. Safe. -/
  | notModelled (mnemonic : String)
  /-- Raised by a file-mode or core-mode start while STATE is HEADER or DECODE, which the spec leaves
  undefined (R218, U7). Safe (log entry 6). -/
  | startWhileBusy
  /-- Raised by a start whose input does not satisfy N < 2^POS_W, which the spec demands of the host
  (R8). Safe (log entry 3). -/
  | inputTooLong
deriving DecidableEq, Repr

/-- What one step of the block answers. -/
abbrev StepOutcome := Host.Outcome State Fault Refusal

/-- The seed of PX, (0, 0, 0, 255) (R23). -/
def seedPixel : Pixel := ⟨0#8, 0#8, 0#8, 255#8⟩

/-- The seed of every cache entry, (0, 0, 0, 0) (R24). -/
def zeroPixel : Pixel := ⟨0#8, 0#8, 0#8, 0#8⟩

/-- The state after hardware reset (R39, R211): nothing bound to IN, no host request, the spec's
values of the parameters. -/
def State.reset : State where
  px := seedPixel
  cache := Vector.replicate 64 zeroPixel
  pos := 0
  width := 0#32
  height := 0#32
  channels := 0#8
  colorspace := 0#8
  total := 0
  count := 0
  run := 0#6
  fsm := .idle
  err := .none
  csNonstd := false
  out := []
  input := ⟨[], 0⟩
  request := none
  cfg := Config.specValues

end Sys2Proof.Machine
end

