-- ==== Sys2Proof/Machine/Flags.lean ====
section
/-! DEFINITION. The one flag (R34), the derived status outputs (R35), the codes of STATE and ERR (R32, R33). -/

namespace Sys2Proof.Machine

/-- CS_NONSTD of a colourspace byte: 1 exactly when it is neither 0 nor 1 (R34, R105). -/
def csNonstdOf (colorspace : Byte) : Bool := decide (1 < colorspace.toNat)

/-- BUSY (R35): STATE is HEADER or DECODE. -/
def busy (s : State) : Bool := s.fsm == .header || s.fsm == .decode

/-- DONE_O (R35). -/
def doneO (s : State) : Bool := s.fsm == .done

/-- ERR_O (R35). -/
def errO (s : State) : Bool := s.fsm == .error

/-- OUT_VALID (R35). -/
def outValid (s : State) : Bool := s.fsm == .done

/-- The 3-bit code of STATE (R32). -/
def fsmCode : Fsm → BitVec 3
  | .idle => 0
  | .header => 1
  | .decode => 2
  | .done => 3
  | .error => 4

/-- The 3-bit code of ERR (R33). -/
def errNumber : ErrCode → BitVec 3
  | .none => 0
  | .badMagic => 1
  | .invalidDimensions => 2
  | .invalidChannels => 3
  | .truncated => 4
  | .pixelCountMismatch => 5

end Sys2Proof.Machine
end

