-- ==== Sys2Proof/Machine/Operands.lean ====
section
/-! DEFINITION. The value of every stored operand (R82) and the channel arithmetic (R164). -/

namespace Sys2Proof.Machine

/-- A QOI_OP_DIFF field's value: stored - 2, in -2..1 (R82). -/
def diffValue (stored : BitVec 2) : Int := (stored.toNat : Int) - 2

/-- QOI_OP_LUMA's green difference: stored - 32, in -32..31 (R82). -/
def lumaGreen (stored : BitVec 6) : Int := (stored.toNat : Int) - 32

/-- QOI_OP_LUMA's dr_dg and db_dg: stored - 8, in -8..7 (R82). -/
def lumaRel (stored : BitVec 4) : Int := (stored.toNat : Int) - 8

/-- QOI_OP_RUN's run_length: stored + 1 (R81, R82). -/
def runLength (n : BitVec 6) : Nat := n.toNat + 1

/-- The arithmetic law (R164): (channel + delta) mod 256. -/
def addDelta (channel : Byte) (delta : Int) : Byte := BitVec.ofInt 8 ((channel.toNat : Int) + delta)

/-- A pixel with a signed delta on r, g, b and its alpha kept (R160, R161). -/
def shiftPixel (p : Pixel) (dr dg db : Int) : Pixel :=
  ⟨addDelta p.r dr, addDelta p.g dg, addDelta p.b db, p.a⟩

/-- The new pixel of QOI_OP_DIFF (R160). -/
def diffPixel (p : Pixel) (sr sg sb : BitVec 2) : Pixel :=
  shiftPixel p (diffValue sr) (diffValue sg) (diffValue sb)

/-- The new pixel of QOI_OP_LUMA (R161): dr = dg + dr_dg and db = dg + db_dg. -/
def lumaPixel (p : Pixel) (sg : BitVec 6) (srg sbg : BitVec 4) : Pixel :=
  shiftPixel p (lumaGreen sg + lumaRel srg) (lumaGreen sg) (lumaGreen sg + lumaRel sbg)

/-- The packing of a pixel into a 32-bit word: r bits 31:24 down to a bits 7:0 (R13). -/
def packPixel (p : Pixel) : BitVec 32 := p.r ++ p.g ++ p.b ++ p.a

end Sys2Proof.Machine
end

