-- ==== Sys2Proof/Machine/Ops.lean ====
section
/-! DEFINITION. The named operations: on the input space, on the cache, `emit` and `commit` (R126, R127), the
configuration checks (R103, R104), and `raise`, the block's one exception entry (R190). -/

namespace Sys2Proof.Machine

/-! ### The input space -/

/-- The byte of an offset below N that no cell lists. Not a choice: every byte of IN is the host's,
and the cells leave out those that are 0x00. -/
def Memory.unlisted : Byte := 0#8

/-- The byte the cells give an offset. -/
def Memory.lookup (k : Nat) : List Host.Cell → Byte
  | [] => Memory.unlisted
  | (a, b) :: cs => if a = k then b else Memory.lookup k cs

/-- IN[k]: the byte at offset k, which exists exactly when k < N (R12). -/
def Memory.read (m : Memory) (k : Nat) : Option Byte :=
  if k < m.size then some (Memory.lookup k m.cells) else none

/-- The bytes at offsets a, a + 1, ..., at most n of them, as far as they exist. -/
def Memory.window (m : Memory) (a : Nat) : Nat → List Byte
  | 0 => []
  | n + 1 =>
    match m.read a with
    | some b => b :: Memory.window m (a + 1) n
    | none => []

/-- The cells of a byte sequence that starts at offset k. -/
def Memory.cellsOf (k : Nat) : List Byte → List Host.Cell
  | [] => []
  | b :: bs => if b = Memory.unlisted then Memory.cellsOf (k + 1) bs else (k, b) :: Memory.cellsOf (k + 1) bs

/-- The input space a start binds: the host's complete byte buffer (R37, R214). -/
def Memory.ofBytes (bs : List Byte) : Memory := ⟨Memory.cellsOf 0 bs, bs.length⟩

/-- The cells with the byte at offset k replaced, in canonical form. -/
def Memory.setCell (k : Nat) (v : Byte) : List Host.Cell → List Host.Cell
  | [] => if v = Memory.unlisted then [] else [(k, v)]
  | (a, b) :: cs =>
    if k < a then (if v = Memory.unlisted then (a, b) :: cs else (k, v) :: (a, b) :: cs)
    else if k = a then (if v = Memory.unlisted then cs else (k, v) :: cs)
    else (a, b) :: Memory.setCell k v cs

/-- The HOST's write of one byte of its buffer before a decode; the block never writes IN (R65). -/
def Memory.store (m : Memory) (k : Nat) (v : Byte) : Memory :=
  ⟨Memory.setCell k v m.cells, max m.size (k + 1)⟩

/-- The host's write of a byte sequence at offsets k, k + 1, .... -/
def Memory.storeBytes (m : Memory) (k : Nat) : List Byte → Memory
  | [] => m
  | b :: bs => Memory.storeBytes (m.store k b) (k + 1) bs

/-- The cells' form above a bound: offsets strictly rising, below N, no listed byte 0x00. -/
def Memory.cellsWf (lo size : Nat) : List Host.Cell → Bool
  | [] => true
  | (a, b) :: cs =>
    decide (lo ≤ a) && decide (a < size) && decide (b ≠ Memory.unlisted) && Memory.cellsWf (a + 1) size cs

/-- The canonical form: equal inputs are equal data. -/
def Memory.wf (m : Memory) : Bool := Memory.cellsWf 0 m.size m.cells

/-! ### The colour-history cache -/

/-- `hash` (R150): over unbounded integers, reduced mod 64. -/
def pixelHash (p : Pixel) : BitVec 6 :=
  BitVec.ofNat 6 ((p.r.toNat * 3 + p.g.toNat * 5 + p.b.toNat * 7 + p.a.toNat * 11) % 64)

/-- CACHE[i]. -/
def readCache (cache : Vector Pixel 64) (i : BitVec 6) : Pixel := cache[i.toNat]'(i.isLt)

/-- CACHE[i] <- p. -/
def writeCache (cache : Vector Pixel 64) (i : BitVec 6) (p : Pixel) : Vector Pixel 64 :=
  cache.set i.toNat p i.isLt

/-- CACHE[hash(p)] <- p, the only write there is (R25). -/
def remember (p : Pixel) (s : State) : State :=
  { s with cache := writeCache s.cache (pixelHash p) p }

/-! ### Output, commit, cursor -/

/-- The bytes one pixel adds to OUT: r, g, b and, when CHANNELS = 4, a (R127). -/
def pixelBytes (channels : Byte) (p : Pixel) : List Byte :=
  if channels = 4#8 then [p.r, p.g, p.b, p.a] else [p.r, p.g, p.b]

/-- `emit(p)` (R127): append the pixel, count it, and enter DONE with RUN cleared when COUNT reaches
TOTAL. -/
def emit (p : Pixel) (s : State) : State :=
  if s.count + 1 = s.total then
    { s with out := s.out ++ pixelBytes s.channels p, count := s.count + 1, fsm := .done, run := 0#6 }
  else
    { s with out := s.out ++ pixelBytes s.channels p, count := s.count + 1 }

/-- `commit(p)` (R126): PX, then CACHE[hash(p)], then emit. -/
def commit (p : Pixel) (s : State) : State := emit p (remember p { s with px := p })

/-- POS <- POS + n (R123, R124). -/
def advance (n : Nat) (s : State) : State := { s with pos := s.pos + n }

/-! ### Exception entry -/

/-- `raise E` (R190): ERR and STATE change and nothing else does. There is no return (R193): the
host's reset and start are the only ways out. -/
def raise (e : ErrCode) (s : State) : State := { s with err := e, fsm := .error }

/-! ### Configuration -/

/-- The dimension check (R103) and then the channel check (R104), in the order of R107: the first
error that applies, if any. -/
def checkConfig (cfg : Config) (w h : BitVec 32) (c : Byte) : Option ErrCode :=
  if w = 0#32 ∨ h = 0#32 ∨ 2 ^ cfg.cntW.bits ≤ w.toNat * h.toNat then some .invalidDimensions
  else if c ≠ 3#8 ∧ c ≠ 4#8 then some .invalidChannels
  else none

/-- WIDTH, HEIGHT, TOTAL, CHANNELS, COLORSPACE and CS_NONSTD from validated values (R101, R122). -/
def loadConfig (w h : BitVec 32) (c cs : Byte) (s : State) : State :=
  { s with
    width := w, height := h, total := w.toNat * h.toNat, channels := c, colorspace := cs,
    csNonstd := csNonstdOf cs }

/-- The chunk loop entered with the cursor at the first chunk: offset 14 after a header (R101), 0 in core
mode (R122). -/
def enterDecode (first : Nat) (s : State) : State := { s with pos := first, fsm := .decode }

/-! ### What enables a chunk -/

/-- A chunk is executed only by a decode step that fetches: STATE = DECODE and RUN = 0 (R123). -/
def chunkEnabled (s : State) : Bool := s.fsm == .decode && s.run == 0#6

/-- A chunk's outcome where a chunk is enabled; elsewhere there is no transition (R120). -/
def whenChunkEnabled (s : State) (o : StepOutcome) : StepOutcome :=
  if chunkEnabled s then o else .fault .notEnabled

/-- What every chunk kind but the run does with the pixel it has formed: commit, then move POS past
the chunk's `len` bytes (R123, R126). -/
def commitChunk (len : Nat) (p : Pixel) (s : State) : StepOutcome :=
  whenChunkEnabled s (.next (advance len (commit p s)))

end Sys2Proof.Machine
end

