-- ==== Sys2Proof/Machine/Delta.lean ====
section
/-! DEFINITION. The delta chunks QOI_OP_DIFF and QOI_OP_LUMA (R160, R161). -/

namespace Sys2Proof.Machine

/-- `exec_diff` (R160). -/
def execDiff (sr sg sb : BitVec 2) (s : State) : StepOutcome := commitChunk 1 (diffPixel s.px sr sg sb) s

/-- `exec_luma` (R161). -/
def execLuma (sg : BitVec 6) (srg sbg : BitVec 4) (s : State) : StepOutcome :=
  commitChunk 2 (lumaPixel s.px sg srg sbg) s

end Sys2Proof.Machine
end

