-- ==== Sys2Proof/Machine/Header.lean ====
section
/-! DEFINITION. The header step (R101) on a header of 14 bytes with the right magic. A shorter input or a
wrong magic is no HEADER: the fetch raises for them first (R107; Machine/Fetch.lean). -/

namespace Sys2Proof.Machine

/-- The header step's tail (R101): the dimension and channel checks, then the configuration
registers, POS <- 14 and STATE <- DECODE. Enabled in STATE = HEADER only. -/
def execHeader (w h : BitVec 32) (c cs : Byte) (s : State) : StepOutcome :=
  if s.fsm = .header then
    match checkConfig s.cfg w h c with
    | some e => .next (raise e s)
    | none => .next (enterDecode 14 (loadConfig w h c cs s))
  else .fault .notEnabled

end Sys2Proof.Machine
end

