-- ==== Sys2Proof/Machine/Index.lean ====
section
/-! DEFINITION. The index chunk QOI_OP_INDEX (R151 to R154). -/

namespace Sys2Proof.Machine

/-- `exec_index` for the entry `i`: the cache is read first (R152), and the commit writes entry
hash(p), which need not be entry `i` (R153). -/
def recallChunk (i : BitVec 6) (s : State) : StepOutcome := commitChunk 1 (readCache s.cache i) s

/-- QOI_OP_INDEX (R151). -/
def execIndex (i : BitVec 6) (s : State) : StepOutcome := recallChunk i s

end Sys2Proof.Machine
end

