-- ==== Sys2Proof/Machine/Literal.lean ====
section
/-! DEFINITION. The literal chunks QOI_OP_RGBA and QOI_OP_RGB (R140, R141). -/

namespace Sys2Proof.Machine

/-- `exec_rgba` (R140): the pixel (r, g, b, a) verbatim, whatever CHANNELS is (R142). -/
def execRgba (r g b a : Byte) (s : State) : StepOutcome := commitChunk 5 ⟨r, g, b, a⟩ s

/-- `exec_rgb` (R141): alpha is PX's, read before PX is overwritten. -/
def execRgb (r g b : Byte) (s : State) : StepOutcome := commitChunk 4 ⟨r, g, b, s.px.a⟩ s

end Sys2Proof.Machine
end

