-- ==== Sys2Proof/Machine/Marker.lean ====
section
/-! DEFINITION. The end marker as a unit (R90; log entry 9). -/

namespace Sys2Proof.Machine

/-- END_MARKER (R90). In DONE the block never reads, checks or consumes it: nothing changes. While the
budget is not full the block has no notion of it: the first of its bytes, 0x00, is fetched as
QOI_OP_INDEX(0), and the seven that follow are left for later steps. -/
def execEndMarker (s : State) : StepOutcome :=
  if s.fsm = .done then .next s else recallChunk 0#6 s

end Sys2Proof.Machine
end

