-- ==== Sys2Proof/Machine/Run.lean ====
section
/-! DEFINITION. The run chunk QOI_OP_RUN (R171, R172, R174) and run continuation (R173). -/

namespace Sys2Proof.Machine

/-- The cache write of a run's fetch step, made only when RUN_CACHE_WRITE (R172). -/
def runRemember (s : State) : State := if s.cfg.runCacheWrite then remember s.px s else s

/-- The effect of `exec_run` where it does not raise (R171): RUN before emit, so that emit's clearing
of RUN on entry to DONE wins. -/
def startRun (n : BitVec 6) (s : State) : State :=
  advance 1 (emit s.px (runRemember { s with run := n }))

/-- QOI_OP_RUN, the fetch step (R171). -/
def execRun (n : BitVec 6) (s : State) : StepOutcome :=
  whenChunkEnabled s
    (if s.cfg.runOvershoot = .fail ∧ s.total - s.count < runLength n then
      .next (raise .pixelCountMismatch s)
    else .next (startRun n s))

/-- `run_continue` (R173): fetches nothing; PX, CACHE and POS stay. -/
def runContinue (s : State) : State := emit s.px { s with run := s.run - 1#6 }

end Sys2Proof.Machine
end

