-- ==== Sys2Proof/Syntax.lean ====
section
/-! DEFINITION. The units of a QOI stream: one constructor per row of spec/opcode_table.json.
Operands are the STORED fields (R82 gives the value of each; Machine/Operands.lean computes it). -/

namespace Sys2Proof

inductive Instr where
  /-- QOI_OP_RGBA (R76): four payload bytes -/
  | rgba (r g b a : Byte)
  /-- QOI_OP_RGB (R77): three payload bytes -/
  | rgb (r g b : Byte)
  /-- QOI_OP_INDEX (R78): index = b0[5:0] -/
  | index (i : BitVec 6)
  /-- QOI_OP_DIFF (R79): sr, sg, sb, two bits each -/
  | diff (sr sg sb : BitVec 2)
  /-- QOI_OP_LUMA (R80): sg = b0[5:0], srg and sbg the two nibbles of b1 -/
  | luma (sg : BitVec 6) (srg sbg : BitVec 4)
  /-- QOI_OP_RUN (R81): n = b0[5:0], 0 to 61; run_length = n + 1 -/
  | run (n : BitVec 6)
  /-- HEADER (R70): the 14-byte header with the right magic; its four fields -/
  | header (width height : BitVec 32) (channels colorspace : Byte)
  /-- END_MARKER (R90): the 8 bytes after the last chunk of a file -/
  | endMarker
deriving DecidableEq, Repr

end Sys2Proof
end

