-- ==== Sys2Proof/Machine/Dispatch.lean ====
section
/-! DEFINITION. One arm per row of the opcode table. -/

namespace Sys2Proof.Machine

def exec (i : Instr) (s : State) : Host.Outcome State Fault Refusal :=
  match i with
  | .rgba r g b a => Sys2Proof.Machine.execRgba r g b a s
  | .rgb r g b => Sys2Proof.Machine.execRgb r g b s
  | .index k => Sys2Proof.Machine.execIndex k s
  | .diff sr sg sb => Sys2Proof.Machine.execDiff sr sg sb s
  | .luma sg srg sbg => Sys2Proof.Machine.execLuma sg srg sbg s
  | .run n => Sys2Proof.Machine.execRun n s
  | .header w h c cs => Sys2Proof.Machine.execHeader w h c cs s
  | .endMarker => Sys2Proof.Machine.execEndMarker s

end Sys2Proof.Machine
end

