-- ==== Sys2Proof/WellFormed.lean ====
section
/-! DEFINITION. Which terms of Instr are instructions of the hardware. The one check: a run's stored
field is 0 to 61, since the tag bytes of 62 and 63 are QOI_OP_RGB and QOI_OP_RGBA (R81, R84). -/

namespace Sys2Proof

def Instr.wf : Instr → Bool
  | .rgba _ _ _ _ => true
  | .rgb _ _ _ => true
  | .index _ => true
  | .diff _ _ _ => true
  | .luma _ _ _ => true
  | .run n => decide (n.toNat ≤ 61)
  | .header _ _ _ _ => true
  | .endMarker => true

end Sys2Proof
end

