-- ==== Sys2Proof/Decode.lean ====
section
/-! DEFINITION. From bytes to units and back: the classification of the first byte (R74), the decoder of
chunks, header and end marker (R70 to R81, R90), the encoder written from the same tables, and the
reading of an opcode-table word. -/

namespace Sys2Proof

/-! ### Classification (R74) and length (R75) -/

/-- The six chunk kinds. -/
inductive ChunkKind where
  | rgba | rgb | index | diff | luma | run
deriving DecidableEq, Repr

/-- `class(b0)` of R74: the two exact matches come before the top two bits. -/
def classify (b0 : Byte) : ChunkKind :=
  if b0 = 0xFF#8 then .rgba
  else if b0 = 0xFE#8 then .rgb
  else if b0.extractLsb' 6 2 = 0b00#2 then .index
  else if b0.extractLsb' 6 2 = 0b01#2 then .diff
  else if b0.extractLsb' 6 2 = 0b10#2 then .luma
  else .run

/-- `len(b0)` of R75, by kind. -/
def chunkLength : ChunkKind → Nat
  | .rgba => 5
  | .rgb => 4
  | .index => 1
  | .diff => 1
  | .luma => 2
  | .run => 1

/-! ### Fields -/

/-- The six low bits of a tag byte: the index of R78, the `sg` of R80, the `n` of R81. -/
def lowSix (b0 : Byte) : BitVec 6 := b0.extractLsb' 0 6

/-- The positions of sr, sg, sb in the QOI_OP_DIFF byte (R79; log entry 13). PRESUMED. -/
def diffFields (b0 : Byte) : BitVec 2 × BitVec 2 × BitVec 2 :=
  (b0.extractLsb' 4 2, b0.extractLsb' 2 2, b0.extractLsb' 0 2)

/-- The QOI_OP_DIFF byte of three stored fields: the positions of `diffFields`. PRESUMED. -/
def diffByte (sr sg sb : BitVec 2) : Byte := 0b01#2 ++ sr ++ sg ++ sb

/-- The positions of srg, sbg in the second QOI_OP_LUMA byte (R80; log entry 14). PRESUMED. -/
def lumaFields (b1 : Byte) : BitVec 4 × BitVec 4 :=
  (b1.extractLsb' 4 4, b1.extractLsb' 0 4)

/-- The second QOI_OP_LUMA byte of two stored fields: the positions of `lumaFields`. PRESUMED. -/
def lumaByte (srg sbg : BitVec 4) : Byte := srg ++ sbg

/-- `be32` of R10: the big-endian value of four bytes, b0 the most significant (Laws/Decode.lean,
`be32_toNat`, gives it as R10's sum). -/
def be32 (b0 b1 b2 b3 : Byte) : BitVec 32 := b0 ++ b1 ++ b2 ++ b3

/-- The four bytes of a 32-bit value, most significant first (R55). -/
def be32Bytes (w : BitVec 32) : List Byte :=
  [w.extractLsb' 24 8, w.extractLsb' 16 8, w.extractLsb' 8 8, w.extractLsb' 0 8]

/-- The magic "qoif" (R71; log entry 15). PRESUMED. -/
def magic : List Byte := [0x71#8, 0x6F#8, 0x69#8, 0x66#8]

/-- The end marker: seven 0x00 bytes followed by 0x01 (R90). -/
def endMarkerBytes : List Byte := [0x00#8, 0x00#8, 0x00#8, 0x00#8, 0x00#8, 0x00#8, 0x00#8, 0x01#8]

/-! ### The decoder -/

/-- Why bytes do not decode. There is no illegal chunk (R84): a chunk fails only for want of bytes. -/
inductive DecodeError where
  /-- no tag byte (R124 (a)) -/
  | noTag
  /-- a tag byte without all of its payload (R124 (b)) -/
  | shortChunk
  /-- fewer than 14 bytes of header (R107 (a)) -/
  | shortHeader
  /-- the first four bytes are not the magic (R106) -/
  | badMagic
deriving DecidableEq, Repr

/-- The rest of a chunk of a known kind: its operands cut from the tag byte and from the payload
(R76 to R82), with the bytes after it. -/
def decodeBody (b0 : Byte) : ChunkKind → List Byte → Except DecodeError (Instr × List Byte)
  | .rgba, r :: g :: b :: a :: tl => .ok (.rgba r g b a, tl)
  | .rgba, _ => .error .shortChunk
  | .rgb, r :: g :: b :: tl => .ok (.rgb r g b, tl)
  | .rgb, _ => .error .shortChunk
  | .index, tl => .ok (.index (lowSix b0), tl)
  | .diff, tl => .ok (.diff (diffFields b0).1 (diffFields b0).2.1 (diffFields b0).2.2, tl)
  | .luma, b1 :: tl => .ok (.luma (lowSix b0) (lumaFields b1).1 (lumaFields b1).2, tl)
  | .luma, [] => .error .shortChunk
  | .run, tl => .ok (.run (lowSix b0), tl)

/-- One chunk from the front of a byte sequence, with the bytes after it (R74, R75, R124). -/
def decodeChunk : List Byte → Except DecodeError (Instr × List Byte)
  | [] => .error .noTag
  | b0 :: rest => decodeBody b0 (classify b0) rest

/-- The header from the front of a byte sequence, with the bytes after it. The length is looked at
first, then the magic (R107 (a), (b)); the values of the fields are checked by the header step. -/
def decodeHeader : List Byte → Except DecodeError (Instr × List Byte)
  | m0 :: m1 :: m2 :: m3 :: w0 :: w1 :: w2 :: w3 :: h0 :: h1 :: h2 :: h3 :: c :: cs :: tl =>
    if [m0, m1, m2, m3] = magic then
      .ok (.header (be32 w0 w1 w2 w3) (be32 h0 h1 h2 h3) c cs, tl)
    else .error .badMagic
  | _ => .error .shortHeader

/-- The end marker from the front of a byte sequence. The BLOCK never does this (R90); a reader of
the file may. -/
def decodeEndMarker : List Byte → Option (Instr × List Byte)
  | b0 :: b1 :: b2 :: b3 :: b4 :: b5 :: b6 :: b7 :: tl =>
    if [b0, b1, b2, b3, b4, b5, b6, b7] = endMarkerBytes then some (.endMarker, tl) else none
  | _ => none

/-- Where in a file a unit stands (R54): the place says which of the three decoders reads it. -/
inductive Place where
  | fileStart | chunkStream | fileEnd
deriving DecidableEq, Repr

/-- The place of a unit. -/
def Instr.place : Instr → Place
  | .rgba _ _ _ _ => .chunkStream
  | .rgb _ _ _ => .chunkStream
  | .index _ => .chunkStream
  | .diff _ _ _ => .chunkStream
  | .luma _ _ _ => .chunkStream
  | .run _ => .chunkStream
  | .header _ _ _ _ => .fileStart
  | .endMarker => .fileEnd

/-- The unit at a place, with the bytes after it; `none` where the bytes do not decode. -/
def decode : Place → List Byte → Option (Instr × List Byte)
  | .fileStart, bs => (decodeHeader bs).toOption
  | .chunkStream, bs => (decodeChunk bs).toOption
  | .fileEnd, bs => decodeEndMarker bs

/-! ### The encoder -/

/-- The bytes of a unit (R70, R76 to R81, R90). -/
def encode : Instr → List Byte
  | .rgba r g b a => [0xFF#8, r, g, b, a]
  | .rgb r g b => [0xFE#8, r, g, b]
  | .index i => [(0b00#2 ++ i : BitVec 8)]
  | .diff sr sg sb => [diffByte sr sg sb]
  | .luma sg srg sbg => [(0b10#2 ++ sg : BitVec 8), lumaByte srg sbg]
  | .run n => [(0b11#2 ++ n : BitVec 8)]
  | .header w h c cs => magic ++ be32Bytes w ++ be32Bytes h ++ [c, cs]
  | .endMarker => endMarkerBytes

/-- How many bytes a unit has (R75; 14 for the header, 8 for the end marker). -/
def Instr.byteLength : Instr → Nat
  | .rgba _ _ _ _ => 5
  | .rgb _ _ _ => 4
  | .index _ => 1
  | .diff _ _ _ => 1
  | .luma _ _ _ => 2
  | .run _ => 1
  | .header _ _ _ _ => 14
  | .endMarker => 8

/-! ### A word of the opcode table (log entry 12) -/

/-- `n` bytes of `w` from bit `8 * k` on, the least significant first. -/
def tableBytesLow (w : Nat) : Nat → Nat → List Byte
  | _, 0 => []
  | k, n + 1 => BitVec.ofNat 8 (w / 2 ^ (8 * k)) :: tableBytesLow w (k + 1) n

/-- The 14 bytes of a HEADER row's number. The table gives the magic as one big-endian 32-bit number
("bytes 0..3 as a big-endian 32-bit value"), so the record is three 32-bit words, each laid out
big-endian (R55), and two bytes. -/
def tableHeaderBytes (w : Nat) : List Byte :=
  be32Bytes (BitVec.ofNat 32 w) ++ be32Bytes (BitVec.ofNat 32 (w / 2 ^ 32)) ++
    be32Bytes (BitVec.ofNat 32 (w / 2 ^ 64)) ++ tableBytesLow w 12 2

/-- The place and the bytes of a table row's number `w` of `nbits` bits: a 64-bit row is the
END_MARKER ("the 8 bytes as a big-endian 64-bit value"); a row of 112 bits, or of 32 bits equal to
the magic's number, is a HEADER; every other row is a chunk, its bytes least significant first. -/
def tableUnit (nbits w : Nat) : Place × List Byte :=
  if nbits = 64 then
    (.fileEnd, be32Bytes (BitVec.ofNat 32 (w / 2 ^ 32)) ++ be32Bytes (BitVec.ofNat 32 w))
  else if nbits = 112 ∨ (nbits = 32 ∧ w % 2 ^ 32 = 0x716F6966) then
    (.fileStart, tableHeaderBytes (w % 2 ^ nbits))
  else (.chunkStream, tableBytesLow (w % 2 ^ nbits) 0 14)

/-- The unit the decoder reads from a table row's number. -/
def decodeTableWord (nbits w : Nat) : Option Instr :=
  (decode (tableUnit nbits w).1 (tableUnit nbits w).2).map Prod.fst

end Sys2Proof
end

