-- ==== Sys2Proof/Machine/HostMoves.lean ====
section
/-! DEFINITION. What the block does when the host resets or starts it (R121, R122, R211, R212, R218). -/

namespace Sys2Proof.Machine

/-- Every piece of state at its reset value, with the parameters of this block and a bound input (R39,
R211, R212). -/
def initial (cfg : Config) (input : Memory) : State := { State.reset with cfg := cfg, input := input }

/-- Whether the cursor can hold every offset of an input of n bytes: n < 2^POS_W (R8). -/
def cursorHolds (cfg : Config) (n : Nat) : Bool :=
  match cfg.posW with
  | none => true
  | some w => decide (n < 2 ^ w.bits)

/-- The file-mode start (R121). -/
def startedFile (cfg : Config) (bytes : List Byte) : State :=
  { initial cfg (Memory.ofBytes bytes) with fsm := .header }

/-- The core-mode start (R122): the checks of R103 and R104, then the configuration and DECODE, or the
error. -/
def startedCore (cfg : Config) (w h : BitVec 32) (c cs : Byte) (bytes : List Byte) : State :=
  match checkConfig cfg w h c with
  | some e => raise e (initial cfg (Memory.ofBytes bytes))
  | none => enterDecode 0 (loadConfig w h c cs (initial cfg (Memory.ofBytes bytes)))

/-- A start is allowed in IDLE, DONE and ERROR (R212), with an input the cursor can hold (R8). -/
def startAllowed (s : State) (n : Nat) (t : State) : StepOutcome :=
  if busy s then .refused .startWhileBusy
  else if cursorHolds s.cfg n then .next t
  else .refused .inputTooLong

/-- The host's move, taken before the block's own step (log entry 5). -/
def hostMove (m : HostMove) (s : State) : StepOutcome :=
  match m with
  | .hardwareReset => .next (initial s.cfg s.input)
  | .startFile bytes => startAllowed s bytes.length (startedFile s.cfg bytes)
  | .startCore w h c cs bytes => startAllowed s bytes.length (startedCore s.cfg w h c cs bytes)

end Sys2Proof.Machine
end

