-- ==== Sys2Proof/Machine/Fetch.lean ====
section
/-! DEFINITION. Reading the next unit from IN (R101, R123, R124), what a failed fetch raises, and how a
unit is put where the next step fetches it. -/

namespace Sys2Proof.Machine

/-- The header at offset 0 of IN (R101). -/
def fetchHeader (s : State) : Except DecodeError Instr :=
  (decodeHeader (s.input.window 0 14)).map Prod.fst

/-- The chunk at POS (R123, R124). A chunk is at most 5 bytes, so the 5 bytes from POS on, as far as
they exist, decide it; the decoder looks at no byte past the chunk (R51). -/
def fetchChunk (s : State) : Except DecodeError Instr :=
  (decodeChunk (s.input.window s.pos 5)).map Prod.fst

/-- The error a failed fetch raises (R106, R107, R124, R185). -/
def fetchError : DecodeError → ErrCode
  | .noTag => .pixelCountMismatch
  | .shortChunk => .truncated
  | .shortHeader => .truncated
  | .badMagic => .badMagic

/-- A unit's bytes put where the next step fetches that unit, as a host would bring it there: the
header by a file-mode start, a chunk (or the end marker's bytes) by a core-mode start of a 1 x 1
RGBA image, unless the block is already in the state that fetches it (log entry 12). -/
def placeUnit (p : Place) (bs : List Byte) (s : State) : State :=
  match p with
  | .fileStart =>
    if s.fsm = .header then { s with input := s.input.storeBytes 0 bs, request := none }
    else startedFile s.cfg bs
  | .chunkStream | .fileEnd =>
    if s.fsm = .decode then
      { s with input := s.input.storeBytes s.pos bs, run := 0#6, request := none }
    else startedCore s.cfg 1#32 1#32 4#8 0#8 bs

end Sys2Proof.Machine
end

