-- ==== Sys2Proof/Machine/Loop.lean ====
section
/-! DEFINITION. The block's own step (R14, R120, R123): the header step, the decode step, and what IDLE, DONE
and ERROR do. -/

namespace Sys2Proof.Machine

/-- A fetched unit is executed; a fetch that failed raises its error (R190). -/
def runFetched (f : Except DecodeError Instr) (s : State) : StepOutcome :=
  match f with
  | .ok i => exec i s
  | .error e => .next (raise (fetchError e) s)

/-- The decode step (R123): a run in progress is continued, else a chunk is fetched. -/
def decodeStep (s : State) : StepOutcome :=
  if s.run = 0#6 then runFetched (fetchChunk s) s else .next (runContinue s)

/-- The step the block takes when the host makes no move: in IDLE, DONE and ERROR it takes none of its
own and all state is kept (R120, R200; log entry 7). -/
def blockStep (s : State) : StepOutcome :=
  match s.fsm with
  | .idle => .next s
  | .header => runFetched (fetchHeader s) s
  | .decode => decodeStep s
  | .done => .next s
  | .error => .next s

end Sys2Proof.Machine
end

