-- ==== Sys2Proof/Machine/Step.lean ====
section
/-! DEFINITION. One step: the host's move if it asks for one, else the block's own (R14, R218). -/

namespace Sys2Proof.Machine

def step (s : State) : Host.Outcome State Fault Refusal :=
  match s.request with
  | some m => hostMove m s
  | none => blockStep s

/-- The table row's unit where the next step fetches it (log entry 12). -/
def State.withFetchWord (s : State) (nbits w : Nat) : State :=
  placeUnit (tableUnit nbits w).1 (tableUnit nbits w).2 s

end Sys2Proof.Machine
end

