-- ==== Sys2Proof/Machine/Assembler.lean ====
section
/-! DEFINITION. The written form of chunks (R86): operands are VALUES, with the ranges of R86, and the bytes
are R86's formulas. -/

namespace Sys2Proof.Machine

/-- One line of a listing (R86). -/
inductive Asm where
  | rgba (r g b a : Nat)
  | rgb (r g b : Nat)
  | index (i : Nat)
  | diff (dr dg db : Int)
  | luma (dg drDg dbDg : Int)
  | run (len : Nat)
  | header (w h c cs : Nat)
  | endMarker
  /-- `BYTES(x, ...)`: the bytes as given -/
  | bytes (xs : List Nat)
deriving DecidableEq, Repr

/-- Whether lo ≤ v < hi. -/
def within (lo v hi : Int) : Bool := decide (lo ≤ v) && decide (v < hi)

/-- The low byte of a value. -/
def lowByte (v : Int) : Byte := BitVec.ofInt 8 v

/-- The bytes of a line, `none` where an operand is out of the range of R86. -/
def assemble : Asm → Option (List Byte)
  | .rgba r g b a =>
    if within 0 r 256 && within 0 g 256 && within 0 b 256 && within 0 a 256 then
      some [0xFF#8, lowByte r, lowByte g, lowByte b, lowByte a]
    else none
  | .rgb r g b =>
    if within 0 r 256 && within 0 g 256 && within 0 b 256 then
      some [0xFE#8, lowByte r, lowByte g, lowByte b]
    else none
  | .index i => if within 0 i 64 then some [lowByte i] else none
  | .diff dr dg db =>
    if within (-2) dr 2 && within (-2) dg 2 && within (-2) db 2 then
      some [lowByte (0x40 + (dr + 2) * 16 + (dg + 2) * 4 + (db + 2))]
    else none
  | .luma dg drDg dbDg =>
    if within (-32) dg 32 && within (-8) drDg 8 && within (-8) dbDg 8 then
      some [lowByte (0x80 + (dg + 32)), lowByte ((drDg + 8) * 16 + (dbDg + 8))]
    else none
  | .run len => if within 1 len 63 then some [lowByte (0xC0 + ((len : Int) - 1))] else none
  | .header w h c cs =>
    if within 0 w (2 ^ 32) && within 0 h (2 ^ 32) && within 0 c 256 && within 0 cs 256 then
      some (magic ++ be32Bytes (BitVec.ofNat 32 w) ++ be32Bytes (BitVec.ofNat 32 h) ++
        [lowByte c, lowByte cs])
    else none
  | .endMarker => some endMarkerBytes
  | .bytes xs => if xs.all (fun (x : Nat) => within 0 (x : Int) 256) then some (xs.map fun (x : Nat) => lowByte (x : Int)) else none

/-- The line of a unit: its values by R82. -/
def disassemble : Instr → Asm
  | .rgba r g b a => .rgba r.toNat g.toNat b.toNat a.toNat
  | .rgb r g b => .rgb r.toNat g.toNat b.toNat
  | .index i => .index i.toNat
  | .diff sr sg sb => .diff (diffValue sr) (diffValue sg) (diffValue sb)
  | .luma sg srg sbg => .luma (lumaGreen sg) (lumaRel srg) (lumaRel sbg)
  | .run n => .run (runLength n)
  | .header w h c cs => .header w.toNat h.toNat c.toNat cs.toNat
  | .endMarker => .endMarker

end Sys2Proof.Machine
end

