-- ==== Sys2Proof/Machine/Ports.lean ====
section
/-! DEFINITION. What the host sees between steps: the result (R130), the status ports (R62), the window ports
onto IN (R63), the bytes a step takes and gives, and where a pixel lies in OUT (R58). -/

namespace Sys2Proof.Machine

/-- The result of a decode (R130). -/
inductive DecodeResult where
  | ok (width height : BitVec 32) (channels colorspace : Byte) (out : List Byte)
  | err (code : ErrCode)
deriving DecidableEq, Repr

/-- The result the host may read: none while the decode is not over (R130). -/
def resultOf (s : State) : Option DecodeResult :=
  match s.fsm with
  | .idle => none
  | .header => none
  | .decode => none
  | .done => some (.ok s.width s.height s.channels s.colorspace s.out)
  | .error => some (.err s.err)

/-- The status ports (R62). -/
structure StatusPorts where
  state : BitVec 3
  err : BitVec 3
  csNonstd : Bool
  hdrWidth : BitVec 32
  hdrHeight : BitVec 32
  hdrChannels : Byte
  hdrColorspace : Byte
  count : Nat
deriving DecidableEq, Repr

/-- The values of the status ports: observation changes nothing (R218). -/
def statusPorts (s : State) : StatusPorts where
  state := fsmCode s.fsm
  err := errNumber s.err
  csNonstd := s.csNonstd
  hdrWidth := s.width
  hdrHeight := s.height
  hdrChannels := s.channels
  hdrColorspace := s.colorspace
  count := s.count

/-- `in_data` at offset POS + j, where it exists (R62). -/
def inData (s : State) (j : Nat) : Option Byte := s.input.read (s.pos + j)

/-- `in_avail` at offset POS + j: that byte exists (R62). -/
def inAvail (s : State) (j : Nat) : Bool := decide (s.pos + j < s.input.size)

/-- `in_eos` at offset POS + j: no byte exists there or beyond (R62). -/
def inEos (s : State) (j : Nat) : Bool := decide (s.input.size ≤ s.pos + j)

/-- `in_take`: how many bytes the step from s to t consumed (R62). -/
def bytesTaken (s t : State) : Nat := t.pos - s.pos

/-- `out_data` with `out_valid`: the new bytes of OUT, in order, of the step from s to t (R62). -/
def bytesGiven (s t : State) : List Byte := t.out.drop s.out.length

/-- The offset in OUT of the first byte of pixel k (R58). -/
def pixelOffset (s : State) (k : Nat) : Nat := k * s.channels.toNat

/-- The column and the row of pixel k (R58). -/
def pixelColumn (s : State) (k : Nat) : Nat := k % s.width.toNat

def pixelRow (s : State) (k : Nat) : Nat := k / s.width.toNat

end Sys2Proof.Machine
end

