-- ==== Sys2Proof/Safety.lean ====
section
/-! DEFINITION. The terms claims use: what an emit and a commit leave (R126, R127), what an error leaves
(R190), what no instruction touches, and the invariant of every reachable state (R26, R131). -/

namespace Sys2Proof.Machine

/-! ### What a step leaves, from the state before to the state after -/

/-- The registers no chunk writes, the bound input, the host's ports and the parameters. -/
structure SameSetup (s t : State) : Prop where
  width : t.width = s.width
  height : t.height = s.height
  channels : t.channels = s.channels
  colorspace : t.colorspace = s.colorspace
  total : t.total = s.total
  err : t.err = s.err
  csNonstd : t.csNonstd = s.csNonstd
  input : t.input = s.input
  request : t.request = s.request
  cfg : t.cfg = s.cfg

/-- What `emit(p)` leaves where `owed` repetitions remain (R127): OUT longer by r, g, b and, when
CHANNELS = 4, a; COUNT up by one; DONE with RUN cleared exactly when COUNT reaches TOTAL. -/
structure Emits (p : Pixel) (owed : BitVec 6) (s t : State) : Prop where
  out : t.out = s.out ++ (if s.channels = 4#8 then [p.r, p.g, p.b, p.a] else [p.r, p.g, p.b])
  count : t.count = s.count + 1
  fsm : t.fsm = if s.count + 1 = s.total then Fsm.done else s.fsm
  run : t.run = if s.count + 1 = s.total then 0#6 else owed

/-- The cache after CACHE[hash(p)] <- p: that entry holds p and every other entry is as before. -/
structure Remembers (p : Pixel) (s t : State) : Prop where
  written : readCache t.cache (pixelHash p) = p
  others : ∀ i : BitVec 6, i ≠ pixelHash p → readCache t.cache i = readCache s.cache i

/-- What a chunk of `len` bytes that commits the pixel p leaves (R123, R126), everything included. -/
structure Commits (p : Pixel) (len : Nat) (s t : State) : Prop where
  px : t.px = p
  cache : Remembers p s t
  emits : Emits p s.run s t
  pos : t.pos = s.pos + len
  setup : SameSetup s t

/-- What `raise e` leaves (R190): ERR and STATE written, every other piece of state as before. -/
structure Raises (e : ErrCode) (s t : State) : Prop where
  err : t.err = e
  fsm : t.fsm = Fsm.error
  px : t.px = s.px
  cache : t.cache = s.cache
  pos : t.pos = s.pos
  width : t.width = s.width
  height : t.height = s.height
  channels : t.channels = s.channels
  colorspace : t.colorspace = s.colorspace
  total : t.total = s.total
  count : t.count = s.count
  run : t.run = s.run
  csNonstd : t.csNonstd = s.csNonstd
  out : t.out = s.out
  input : t.input = s.input
  request : t.request = s.request
  cfg : t.cfg = s.cfg

/-- The seeds every reset and start loads (R39): PX, CACHE, COUNT, RUN, POS and OUT. -/
structure Seeded (t : State) : Prop where
  px : t.px = ⟨0#8, 0#8, 0#8, 255#8⟩
  cache : ∀ i : BitVec 6, readCache t.cache i = ⟨0#8, 0#8, 0#8, 0#8⟩
  count : t.count = 0
  run : t.run = 0#6
  pos : t.pos = 0
  out : t.out = []

/-- The configuration registers at 0 (R39). -/
structure Unconfigured (t : State) : Prop where
  width : t.width = 0#32
  height : t.height = 0#32
  channels : t.channels = 0#8
  colorspace : t.colorspace = 0#8
  total : t.total = 0
  csNonstd : t.csNonstd = false

/-- The configuration registers loaded with w, h, c, cs (R101, R122). -/
structure Configured (w h : BitVec 32) (c cs : Byte) (t : State) : Prop where
  width : t.width = w
  height : t.height = h
  channels : t.channels = c
  colorspace : t.colorspace = cs
  total : t.total = w.toNat * h.toNat
  csNonstd : t.csNonstd = true ↔ 1 < cs.toNat

/-- What the header step leaves alone whatever it finds (R100, R108). -/
structure HeaderKeeps (s t : State) : Prop where
  px : t.px = s.px
  cache : t.cache = s.cache
  count : t.count = s.count
  run : t.run = s.run
  out : t.out = s.out
  input : t.input = s.input
  request : t.request = s.request
  cfg : t.cfg = s.cfg

/-- The run chunk executed in ONE step (R176): m pixels, where m is the run's length or the remaining
budget, whichever is less. -/
def wholeRun (n : BitVec 6) (s : State) : State :=
  { s with
    cache := if s.cfg.runCacheWrite then writeCache s.cache (pixelHash s.px) s.px else s.cache
    out := s.out ++ (List.replicate (min (runLength n) (s.total - s.count)) (pixelBytes s.channels s.px)).flatten
    count := s.count + min (runLength n) (s.total - s.count)
    pos := s.pos + 1
    fsm := if s.count + min (runLength n) (s.total - s.count) = s.total then .done else s.fsm }

/-! ### The invariant -/

/-- CACHE[hash(PX)] = PX (R26). -/
def PxCached (s : State) : Prop := readCache s.cache (pixelHash s.px) = s.px

/-- The cache invariant (R26): an entry is (0, 0, 0, 0) or stands at its pixel's hash. -/
def CacheInv (s : State) : Prop :=
  ∀ i : BitVec 6, readCache s.cache i = zeroPixel ∨ pixelHash (readCache s.cache i) = i

/-- The state before any chunk (IDLE and HEADER): seeds and empty configuration (R39, R108). -/
def WaitInv (s : State) : Prop := s.fsm = .idle ∨ s.fsm = .header → Seeded s ∧ Unconfigured s

/-- The invariant of every reachable state: R131 with R26 to R31, R33, R34 and R36. -/
structure StateInv (s : State) : Prop where
  /-- the input is in canonical form -/
  input : s.input.wf = true
  /-- R26, first invariant -/
  cache : CacheInv s
  /-- R26, second invariant, in every state: PX is the seed or stands in the cache -/
  px : s.px = seedPixel ∨ PxCached s
  /-- R26, second invariant, for RUN_CACHE_WRITE = true: from the first pixel on -/
  pxWrite : s.cfg.runCacheWrite = true → 1 ≤ s.count → PxCached s
  /-- R27 -/
  pos : s.pos ≤ s.input.size
  /-- R8: N < 2^POS_W -/
  fits : cursorHolds s.cfg s.input.size = true
  /-- R29 -/
  total : s.total = s.width.toNat * s.height.toNat
  /-- R34 -/
  csNonstd : s.csNonstd = csNonstdOf s.colorspace
  /-- R28, R29: in DECODE and DONE the configuration is legal -/
  legal : s.fsm = .decode ∨ s.fsm = .done →
    (s.channels = 3#8 ∨ s.channels = 4#8) ∧ 1 ≤ s.total ∧ s.total < 2 ^ s.cfg.cntW.bits
  /-- R30 -/
  count : s.count ≤ s.total
  /-- R30 -/
  owed : s.fsm = .decode → s.count < s.total
  /-- R30, R128 -/
  full : s.fsm = .done → s.count = s.total
  /-- R36 -/
  out : s.out.length = s.count * s.channels.toNat
  /-- R31 -/
  runMax : s.run.toNat ≤ 61
  /-- R31, R171, R191: repetitions are owed only while the loop runs, after a pixel was emitted -/
  run : s.run ≠ 0#6 → s.fsm = .decode ∧ 1 ≤ s.count
  /-- R33 -/
  err : s.err ≠ .none ↔ s.fsm = .error
  /-- R39, R108 -/
  wait : WaitInv s

end Sys2Proof.Machine
end

