-- ==== Sys2Proof/Certificates/Slice0/Obligations.lean ====
section
/-! DEFINITION. The statements for the provers, from the numbered rules of spec/. Each docstring names the rule
or the section it formalises. A witness of every statement with hypotheses is in Tests/Slice0.lean. -/

open Sys2Proof Sys2Proof.Machine

/-! ### Encoding -/

/-- Every well-formed unit of every row of the table, followed by anything: the decoder of its place
reads it back and leaves what follows (30_encoding.md, sections 1, 3 and 6). The DIFF and LUMA bit
positions and the magic are PRESUMED (log entries 13 to 15). -/
def Obligations.DecodeOfEncode : Prop :=
  ∀ (i : Instr) (rest : List Byte), i.wf = true → decode i.place (encode i ++ rest) = some (i, rest)

/-- The other direction: bytes that decode are the encoding of what they decode to, which is well
formed and belongs to that place (30_encoding.md, sections 1 to 4). Log entries 13 to 15. -/
def Obligations.EncodeOfDecode : Prop :=
  ∀ (p : Place) (bs : List Byte) (i : Instr) (rest : List Byte),
    decode p bs = some (i, rest) → i.place = p ∧ i.wf = true ∧ encode i ++ rest = bs

/-- R74: the classification of the first byte, the exact matches first; 0, 1, 3 or 4 payload bytes. -/
def Obligations.TagByteClassification : Prop :=
  ∀ b0 : Byte,
    (b0 = 0xFF#8 → classify b0 = .rgba) ∧
    (b0 = 0xFE#8 → classify b0 = .rgb) ∧
    (b0.extractLsb' 6 2 = 0b00#2 → classify b0 = .index) ∧
    (b0.extractLsb' 6 2 = 0b01#2 → classify b0 = .diff) ∧
    (b0.extractLsb' 6 2 = 0b10#2 → classify b0 = .luma) ∧
    (b0.extractLsb' 6 2 = 0b11#2 → b0.toNat ≤ 0xFD → classify b0 = .run) ∧
    chunkLength (classify b0) - 1 ∈ [0, 1, 3, 4]

/-- No tag byte is invalid (30_encoding.md, section 5): bytes decode as a chunk exactly when the
payload the tag asks for is there, and then exactly the chunk's bytes are used. -/
def Obligations.EveryTagByteIsAChunk : Prop :=
  ∀ (b0 : Byte) (bs : List Byte),
    ((∃ i rest, decodeChunk (b0 :: bs) = .ok (i, rest)) ↔ chunkLength (classify b0) ≤ bs.length + 1) ∧
    ∀ i rest, decodeChunk (b0 :: bs) = .ok (i, rest) →
      i.byteLength = chunkLength (classify b0) ∧ rest = (b0 :: bs).drop i.byteLength

/-- Words written out from the encodings of the spec (95_test_vectors.md V-C2) decode to the units
they stand for: a sanity check of one word per row. Log entries 13 to 15. -/
def Obligations.SampleWordsDecode : Prop :=
  decode .chunkStream [0xFF, 0x0A, 0x14, 0x1E, 0xFF] = some (.rgba 10 20 30 255, []) ∧
  decode .chunkStream [0xFE, 0x64, 0x96, 0xC8] = some (.rgb 100 150 200, []) ∧
  decode .chunkStream [0x35] = some (.index 53, []) ∧
  decode .chunkStream [0x72] = some (.diff 3 0 2, []) ∧
  decode .chunkStream [0x9B, 0xB0] = some (.luma 27 11 0, []) ∧
  decode .chunkStream [0xFD] = some (.run 61, []) ∧
  decode .fileStart [0x71, 0x6F, 0x69, 0x66, 0, 0, 1, 0x2C, 0, 0, 0, 0xC8, 3, 1] =
    some (.header 300 200 3 1, []) ∧
  decode .fileEnd [0, 0, 0, 0, 0, 0, 0, 1] = some (.endMarker, [])

/-- The written form (30_encoding.md, section 7): the line of a unit, with the values of its operands,
assembles by the formulas of that section to the bytes the encoder gives. The notation is the spec's
decision; the DIFF and LUMA bit positions and the magic are PRESUMED (log entries 13 to 15). -/
def Obligations.WrittenFormAssembles : Prop :=
  ∀ i : Instr, i.wf = true → assemble (disassemble i) = some (encode i)

/-! ### Operands and arithmetic -/

/-- The hash (43_index_chunk.md): over unbounded integers, not injective, and the values the spec uses. -/
def Obligations.HashOfAPixel : Prop :=
  (∀ p : Pixel,
    (pixelHash p).toNat = (p.r.toNat * 3 + p.g.toNat * 5 + p.b.toNat * 7 + p.a.toNat * 11) % 64) ∧
  (∃ p q : Pixel, p ≠ q ∧ pixelHash p = pixelHash q) ∧
  pixelHash ⟨0, 0, 0, 0⟩ = 0 ∧ pixelHash ⟨0, 0, 0, 255⟩ = 53 ∧ pixelHash ⟨10, 20, 30, 255⟩ = 9 ∧
  pixelHash ⟨255, 255, 255, 255⟩ = 38 ∧ pixelHash ⟨64, 0, 0, 0⟩ = 0 ∧ pixelHash ⟨1, 2, 3, 4⟩ = 14

/-- The spec's own inference in 43_index_chunk.md: 8-bit wrapping arithmetic gives the same index. -/
def Obligations.HashInEightBits : Prop :=
  ∀ p : Pixel, pixelHash p = (p.r * 3#8 + p.g * 5#8 + p.b * 7#8 + p.a * 11#8).extractLsb' 0 6

/-- The arithmetic law (44_delta_chunks.md): the channel sum is reduced mod 256, as an 8-bit adder
that drops the carry gives it. -/
def Obligations.ChannelSumsWrap : Prop :=
  ∀ (c : Byte) (d : Int),
    ((addDelta c d).toNat : Int) = ((c.toNat : Int) + d) % 256 ∧ addDelta c d = c + BitVec.ofInt 8 d

/-! ### The literal chunks -/

/-- R140: QOI_OP_RGBA. Four payload bytes are the pixel whatever their values; where a chunk is
executed (R123) it commits (r, g, b, a) and moves POS by 5; with fewer the fetch raises Truncated. -/
def Obligations.RgbaCommitsItsPayload : Prop :=
  (∀ (s : State) (r g b a : Byte), s.fsm = .decode → s.run = 0#6 →
    ∃ t, exec (.rgba r g b a) s = .next t ∧ Commits ⟨r, g, b, a⟩ 5 s t) ∧
  (∀ (r g b a : Byte) (rest : List Byte),
    decodeChunk (0xFF#8 :: r :: g :: b :: a :: rest) = .ok (.rgba r g b a, rest)) ∧
  (∀ s : State, s.request = none → s.fsm = .decode → s.run = 0#6 →
    s.input.read s.pos = some 0xFF#8 → s.input.size < s.pos + 5 →
    ∃ t, step s = .next t ∧ Raises .truncated s t)

/-- R141: QOI_OP_RGB. Alpha is PX's before the step; POS moves by 4; with fewer than three payload
bytes the fetch raises Truncated. -/
def Obligations.RgbKeepsAlpha : Prop :=
  (∀ (s : State) (r g b : Byte), s.fsm = .decode → s.run = 0#6 →
    ∃ t, exec (.rgb r g b) s = .next t ∧ Commits ⟨r, g, b, s.px.a⟩ 4 s t) ∧
  (∀ (r g b : Byte) (rest : List Byte),
    decodeChunk (0xFE#8 :: r :: g :: b :: rest) = .ok (.rgb r g b, rest)) ∧
  (∀ s : State, s.request = none → s.fsm = .decode → s.run = 0#6 →
    s.input.read s.pos = some 0xFE#8 → s.input.size < s.pos + 4 →
    ∃ t, step s = .next t ∧ Raises .truncated s t)

/-! ### The index chunk -/

/-- R151: QOI_OP_INDEX commits the pixel that entry held before the step, and no byte sequence that
begins with its tag fails to decode. -/
def Obligations.IndexCommitsItsEntry : Prop :=
  (∀ (s : State) (i : BitVec 6), s.fsm = .decode → s.run = 0#6 →
    ∃ t, exec (.index i) s = .next t ∧ Commits (readCache s.cache i) 1 s t) ∧
  (∀ (i : BitVec 6) (rest : List Byte),
    decodeChunk ((0b00#2 ++ i : BitVec 8) :: rest) = .ok (.index i, rest))

/-- Which entry QOI_OP_INDEX writes, under the cache invariant (43_index_chunk.md, an inference of the
spec's own): an entry standing at its hash leaves the cache as it was; a never-written entry other
than 0 makes PX (0, 0, 0, 0) and overwrites entry 0 with it. -/
def Obligations.IndexWritesTheHashEntry : Prop :=
  ∀ (s t : State) (i : BitVec 6), CacheInv s → exec (.index i) s = .next t →
    (pixelHash (readCache s.cache i) = i → t.cache = s.cache) ∧
    (pixelHash (readCache s.cache i) ≠ i →
      t.px = ⟨0, 0, 0, 0⟩ ∧ readCache t.cache 0#6 = ⟨0, 0, 0, 0⟩ ∧
      ∀ j : BitVec 6, j ≠ 0#6 → readCache t.cache j = readCache s.cache j)

/-! ### The delta chunks -/

/-- QOI_OP_DIFF (44_delta_chunks.md): each channel plus (stored - 2) mod 256, alpha kept; the positions
of the stored fields are not part of it. -/
def Obligations.DiffAddsSmallDeltas : Prop :=
  ∀ (s : State) (sr sg sb : BitVec 2), s.fsm = .decode → s.run = 0#6 →
    ∃ t p, exec (.diff sr sg sb) s = .next t ∧ Commits p 1 s t ∧
      (p.r.toNat : Int) = (s.px.r.toNat + (sr.toNat - 2 : Int)) % 256 ∧
      (p.g.toNat : Int) = (s.px.g.toNat + (sg.toNat - 2 : Int)) % 256 ∧
      (p.b.toNat : Int) = (s.px.b.toNat + (sb.toNat - 2 : Int)) % 256 ∧
      p.a = s.px.a

/-- QOI_OP_LUMA (44_delta_chunks.md): dg = stored - 32; dr and db are dg plus (stored - 8); mod 256,
alpha kept; the positions of the stored fields are not part of it. -/
def Obligations.LumaAddsGreenRelativeDeltas : Prop :=
  ∀ (s : State) (sg : BitVec 6) (srg sbg : BitVec 4), s.fsm = .decode → s.run = 0#6 →
    ∃ t p, exec (.luma sg srg sbg) s = .next t ∧ Commits p 2 s t ∧
      (p.r.toNat : Int) = (s.px.r.toNat + ((sg.toNat - 32 : Int) + (srg.toNat - 8 : Int))) % 256 ∧
      (p.g.toNat : Int) = (s.px.g.toNat + (sg.toNat - 32 : Int)) % 256 ∧
      (p.b.toNat : Int) = (s.px.b.toNat + ((sg.toNat - 32 : Int) + (sbg.toNat - 8 : Int))) % 256 ∧
      p.a = s.px.a

/-! ### The run chunk -/

/-- R171: the fetch step of QOI_OP_RUN. It emits PX, owes n more, and writes the cache only when
RUN_CACHE_WRITE; under RUN_OVERSHOOT = fail a run longer than the budget raises instead. Its tag needs
no payload. -/
def Obligations.RunChunkEmitsOrRaises : Prop :=
  (∀ (s : State) (n : BitVec 6), s.fsm = .decode → s.run = 0#6 →
    (s.cfg.runOvershoot = .clip ∨ n.toNat + 1 ≤ s.total - s.count →
      ∃ t, exec (.run n) s = .next t ∧ t.px = s.px ∧ Emits s.px n s t ∧ t.pos = s.pos + 1 ∧
        SameSetup s t ∧ (s.cfg.runCacheWrite = true → Remembers s.px s t) ∧
        (s.cfg.runCacheWrite = false → t.cache = s.cache)) ∧
    (s.cfg.runOvershoot = .fail ∧ s.total - s.count < n.toNat + 1 →
      ∃ t, exec (.run n) s = .next t ∧ Raises .pixelCountMismatch s t)) ∧
  (∀ (n : BitVec 6) (rest : List Byte), n.toNat ≤ 61 →
    decodeChunk ((0b11#2 ++ n : BitVec 8) :: rest) = .ok (.run n, rest))

/-- Run continuation (45_run_chunk.md; the one-pixel step is the spec's decision): with RUN > 0 the
step reads no byte, emits PX and owes one less; PX, CACHE and POS stay. -/
def Obligations.RunContinuationEmitsPx : Prop :=
  ∀ s : State, s.request = none → s.fsm = .decode → s.run ≠ 0#6 →
    ∃ t, step s = .next t ∧ t.px = s.px ∧ t.cache = s.cache ∧ t.pos = s.pos ∧
      Emits s.px (s.run - 1#6) s t ∧ SameSetup s t

/-- A run executed in one step (45_run_chunk.md, the equivalence, an inference of the spec's own): under
`clip`, after min(n + 1, TOTAL - COUNT) steps the block is in the state of the whole-run step. -/
def Obligations.WholeRunInOneStep : Prop :=
  ∀ (s : State) (n : BitVec 6), StateInv s → s.request = none → s.fsm = .decode → s.run = 0#6 →
    s.cfg.runOvershoot = .clip → fetchChunk s = .ok (.run n) →
    Host.Core.run core (min (n.toNat + 1) (s.total - s.count)) s = .next (wholeRun n s)

/-- The cache write of a run changes nothing when the entry already holds PX, and is seen exactly by a
run at the start of a stream (45_run_chunk.md; 90_conflicts.md C2). -/
def Obligations.RunCacheWriteIsANoOpUnlessFirst : Prop :=
  (∀ (s t : State) (n : BitVec 6), PxCached s → exec (.run n) s = .next t → t.cache = s.cache) ∧
  (∀ (s t : State) (n : BitVec 6), s.px = ⟨0, 0, 0, 255⟩ →
    (∀ i : BitVec 6, readCache s.cache i = ⟨0, 0, 0, 0⟩) →
    s.cfg.runOvershoot = .clip → exec (.run n) s = .next t →
    readCache t.cache 53#6 = if s.cfg.runCacheWrite then ⟨0, 0, 0, 255⟩ else ⟨0, 0, 0, 0⟩)

/-! ### The header -/

/-- The header step from the 14 bytes on (40_header.md): big-endian width and height; the dimension
check, then the channel check; else the registers, the flag, POS = 14 and DECODE. Nothing else changes.
The magic's bytes are PRESUMED (log entry 15). -/
def Obligations.HeaderStepOnBytes : Prop :=
  ∀ (s : State) (w0 w1 w2 w3 h0 h1 h2 h3 c cs : Byte) (w h : Nat),
    s.request = none → s.fsm = .header →
    (∀ k, k < 14 → s.input.read k =
      [0x71#8, 0x6F#8, 0x69#8, 0x66#8, w0, w1, w2, w3, h0, h1, h2, h3, c, cs][k]?) →
    w = w0.toNat * 2 ^ 24 + w1.toNat * 2 ^ 16 + w2.toNat * 2 ^ 8 + w3.toNat →
    h = h0.toNat * 2 ^ 24 + h1.toNat * 2 ^ 16 + h2.toNat * 2 ^ 8 + h3.toNat →
    (w = 0 ∨ h = 0 ∨ 2 ^ s.cfg.cntW.bits ≤ w * h →
      ∃ t, step s = .next t ∧ Raises .invalidDimensions s t) ∧
    (w ≠ 0 → h ≠ 0 → w * h < 2 ^ s.cfg.cntW.bits → c ≠ 3#8 → c ≠ 4#8 →
      ∃ t, step s = .next t ∧ Raises .invalidChannels s t) ∧
    (w ≠ 0 → h ≠ 0 → w * h < 2 ^ s.cfg.cntW.bits → c = 3#8 ∨ c = 4#8 →
      ∃ t, step s = .next t ∧ t.width.toNat = w ∧ t.height.toNat = h ∧ t.total = w * h ∧
        t.channels = c ∧ t.colorspace = cs ∧ (t.csNonstd = true ↔ 1 < cs.toNat) ∧
        t.pos = 14 ∧ t.fsm = .decode ∧ t.err = s.err ∧ HeaderKeeps s t)

/-- The checks before the fields are looked at (40_header.md; the short-input check is the spec's
decision, the magic's bytes are PRESUMED, log entry 15): fewer than 14 bytes is Truncated, whatever
they are; else a wrong magic is BadMagic, whatever follows. -/
def Obligations.HeaderFetchChecks : Prop :=
  ∀ s : State, s.request = none → s.fsm = .header →
    (s.input.size < 14 → ∃ t, step s = .next t ∧ Raises .truncated s t) ∧
    (14 ≤ s.input.size → s.input.window 0 4 ≠ [0x71#8, 0x6F#8, 0x69#8, 0x66#8] →
      ∃ t, step s = .next t ∧ Raises .badMagic s t)

/-- R104: with legal dimensions, the header's channel byte is refused unless it is 3 or 4. -/
def Obligations.HeaderChannelCheck : Prop :=
  ∀ (s : State) (w h : BitVec 32) (c cs : Byte), s.fsm = .header → w ≠ 0#32 → h ≠ 0#32 →
    w.toNat * h.toNat < 2 ^ s.cfg.cntW.bits →
    ((c.toNat = 3 ∨ c.toNat = 4) → ∃ t, exec (.header w h c cs) s = .next t ∧ t.fsm = .decode) ∧
    (¬(c.toNat = 3 ∨ c.toNat = 4) →
      ∃ t, exec (.header w h c cs) s = .next t ∧ Raises .invalidChannels s t)

/-- The header step completes on every legal header (40_header.md, section on the header step): the
registers are loaded, POS is 14, the loop is entered, and the rest is as it was. -/
def Obligations.HeaderCompletes : Prop :=
  ∀ (s : State) (w h : BitVec 32) (c cs : Byte), s.fsm = .header → w ≠ 0#32 → h ≠ 0#32 →
    w.toNat * h.toNat < 2 ^ s.cfg.cntW.bits → c = 3#8 ∨ c = 4#8 →
    ∃ t, exec (.header w h c cs) s = .next t ∧ Configured w h c cs t ∧ t.pos = 14 ∧
      t.fsm = .decode ∧ t.err = s.err ∧ HeaderKeeps s t

/-- A header error reports no header field (40_header.md; the spec's decision on partial results). -/
def Obligations.HeaderErrorReportsNothing : Prop :=
  ∀ s t : State, StateInv s → s.request = none → s.fsm = .header → step s = .next t → t.fsm = .error →
    Seeded t ∧ Unconfigured t ∧ t.err ≠ .none ∧ resultOf t = some (.err t.err)

/-- With CNT_W = 64 no pair of dimensions overflows the pixel count (00_scope.md, section 4, an
inference of the spec's own): only zero dimensions are refused. -/
def Obligations.SixtyFourBitCountNeverOverflows : Prop :=
  ∀ (cfg : Config) (w h : BitVec 32) (c : Byte), cfg.cntW.bits = 64 →
    (checkConfig cfg w h c = some .invalidDimensions ↔ w = 0#32 ∨ h = 0#32)

/-! ### The end marker -/

/-- The end marker (30_encoding.md, section 6; log entry 9): in DONE it changes nothing; where chunks are
fetched its first byte is QOI_OP_INDEX(0), and its eight bytes are seven of those and QOI_OP_INDEX(1). -/
def Obligations.EndMarkerIsNeverConsumed : Prop :=
  (∀ s : State, s.fsm = .done → exec .endMarker s = .next s) ∧
  (∀ s : State, s.fsm = .decode → s.run = 0#6 →
    ∃ t, exec .endMarker s = .next t ∧ exec (.index 0#6) s = .next t ∧
      Commits (readCache s.cache 0#6) 1 s t) ∧
  (∀ rest : List Byte, decodeChunk (0x00#8 :: rest) = .ok (.index 0#6, rest) ∧
    decodeChunk (0x01#8 :: rest) = .ok (.index 1#6, rest))

/-! ### Frames -/

/-- QOI_OP_RGBA, QOI_OP_RGB, QOI_OP_INDEX, QOI_OP_DIFF and QOI_OP_LUMA: no byte of IN, no
configuration register, no error code, no flag changes; of the cache only entry hash(PX after) may
change; OUT keeps what it held and gains CHANNELS bytes. -/
def Obligations.FrameOfCommittingChunks : Prop :=
  ∀ (i : Instr) (s t : State), i.place = .chunkStream → (∀ n, i ≠ .run n) → exec i s = .next t →
    SameSetup s t ∧ (∀ k, t.input.read k = s.input.read k) ∧
    (∀ j : BitVec 6, j ≠ pixelHash t.px → readCache t.cache j = readCache s.cache j) ∧
    ∃ bs, t.out = s.out ++ bs ∧ bs.length = if s.channels = 4#8 then 4 else 3

/-- QOI_OP_RUN: PX, the configuration registers, the flag and every byte of IN stay; of the cache only
entry hash(PX) may change, and none when RUN_CACHE_WRITE is false; OUT only grows; POS moves by 1, or
stays with the error. -/
def Obligations.FrameOfRunChunk : Prop :=
  ∀ (n : BitVec 6) (s t : State), exec (.run n) s = .next t →
    t.px = s.px ∧ t.width = s.width ∧ t.height = s.height ∧ t.channels = s.channels ∧
    t.colorspace = s.colorspace ∧ t.total = s.total ∧ t.csNonstd = s.csNonstd ∧
    t.request = s.request ∧ t.cfg = s.cfg ∧ (∀ k, t.input.read k = s.input.read k) ∧
    (∀ j : BitVec 6, j ≠ pixelHash s.px → readCache t.cache j = readCache s.cache j) ∧
    (s.cfg.runCacheWrite = false → t.cache = s.cache) ∧ (∃ bs, t.out = s.out ++ bs) ∧
    ((t.pos = s.pos + 1 ∧ t.err = s.err) ∨ Raises .pixelCountMismatch s t)

/-- HEADER: PX, CACHE, COUNT, RUN, OUT and every byte of IN stay, whether it loads or raises; the
configuration registers and the flag change only where it loads. -/
def Obligations.FrameOfHeader : Prop :=
  ∀ (w h : BitVec 32) (c cs : Byte) (s t : State), exec (.header w h c cs) s = .next t →
    HeaderKeeps s t ∧ (∀ k, t.input.read k = s.input.read k) ∧
    (t.fsm = .decode ∨ ∃ e, Raises e s t)

/-- END_MARKER: no byte of IN, no configuration register, no error code, no flag changes; it changes
nothing at all, or of the cache only entry hash(PX after) (log entry 9). -/
def Obligations.FrameOfEndMarker : Prop :=
  ∀ s t : State, exec .endMarker s = .next t →
    SameSetup s t ∧ (∀ k, t.input.read k = s.input.read k) ∧
    (t = s ∨ ∀ j : BitVec 6, j ≠ pixelHash t.px → readCache t.cache j = readCache s.cache j)

/-! ### The step -/

/-- A step runs the unit the bytes decode to (41_decode_loop.md, the decode step; 40_header.md, the
header step): a chunk at POS in DECODE with RUN = 0, the header at offset 0 in HEADER. -/
def Obligations.StepRunsTheDecodedUnit : Prop :=
  (∀ (s : State) (i : Instr) (rest : List Byte), s.request = none → s.fsm = .decode → s.run = 0#6 →
    decodeChunk (s.input.window s.pos 5) = .ok (i, rest) → step s = exec i s) ∧
  (∀ (s : State) (i : Instr) (rest : List Byte), s.request = none → s.fsm = .header →
    decodeHeader (s.input.window 0 14) = .ok (i, rest) → step s = exec i s)

/-- R124: the two fetch checks, that only chunks with payload can be cut short, that where the bytes
exist the chunk they decode to is executed, and that a run in progress makes neither check. -/
def Obligations.FetchChecks : Prop :=
  ∀ s : State, s.request = none → s.fsm = .decode →
    (s.run = 0#6 → s.input.size ≤ s.pos →
      ∃ t, step s = .next t ∧ Raises .pixelCountMismatch s t) ∧
    (∀ b0, s.run = 0#6 → s.input.read s.pos = some b0 →
      s.input.size < s.pos + chunkLength (classify b0) →
      classify b0 ∈ [.rgba, .rgb, .luma] ∧ ∃ t, step s = .next t ∧ Raises .truncated s t) ∧
    (∀ b0, s.run = 0#6 → s.input.read s.pos = some b0 →
      s.pos + chunkLength (classify b0) ≤ s.input.size →
      ∃ i rest, decodeChunk (s.input.window s.pos 5) = .ok (i, rest) ∧
        i.byteLength = chunkLength (classify b0) ∧ i.place = .chunkStream ∧ step s = exec i s) ∧
    (s.run ≠ 0#6 → ∃ t, step s = .next t ∧ t.err = s.err ∧ t.pos = s.pos)

/-- ERROR and DONE are terminal but for the host (60_exceptions.md, section 5), and IDLE waits for it: a
step without a host move leaves all state as it is (60_exceptions.md, section 8; log entry 7). -/
def Obligations.QuiescentStatesKeepEverything : Prop :=
  ∀ s : State, s.request = none → s.fsm = .idle ∨ s.fsm = .done ∨ s.fsm = .error → step s = .next s

/-- The block is never stuck, and refuses nothing but host moves outside the host table
(60_exceptions.md, section 9; log entries 3 and 6): a step never faults, and one that is refused was
a start, made while busy or with more bytes than the cursor can count: N is not < 2^POS_W. -/
def Obligations.StepRefusesOnlyBadStarts : Prop :=
  ∀ s : State, (∀ f, step s ≠ .fault f) ∧
    ∀ r, step s = .refused r →
      ∃ m, s.request = some m ∧ m ≠ .hardwareReset ∧
        ((r = .startWhileBusy ∧ (s.fsm = .header ∨ s.fsm = .decode)) ∨
          (r = .inputTooLong ∧ ∃ bytes,
            (m = .startFile bytes ∨ ∃ w h c cs, m = .startCore w h c cs bytes) ∧
            cursorHolds s.cfg bytes.length = false ∧
            ∃ w, s.cfg.posW = some w ∧ 2 ^ w.bits ≤ bytes.length))

/-- Progress (41_decode_loop.md, section 4, an inference of the spec's own): a decode step emits one
pixel, which is then PX, or enters ERROR and changes nothing else. -/
def Obligations.DecodeStepMakesProgress : Prop :=
  ∀ s : State, s.request = none → s.fsm = .decode →
    ∃ t, step s = .next t ∧
      ((t.count = s.count + 1 ∧ t.err = s.err ∧ t.fsm ≠ .error ∧
          t.out = s.out ++ (if s.channels = 4#8 then [t.px.r, t.px.g, t.px.b, t.px.a]
            else [t.px.r, t.px.g, t.px.b])) ∨
        Raises .pixelCountMismatch s t ∨ Raises .truncated s t)

/-- A decode that has entered the loop reaches DONE or ERROR after at most TOTAL - COUNT steps, whatever
the input (41_decode_loop.md, section 4). -/
def Obligations.DecodeTerminates : Prop :=
  ∀ s : State, StateInv s → s.request = none → s.fsm = .decode →
    ∃ k t, k ≤ s.total - s.count ∧ Host.Core.run core k s = .next t ∧ (t.fsm = .done ∨ t.fsm = .error)

/-- The result of a decode step does not depend on bytes it does not consume (20_memory.md, section 1):
another input that agrees on the offsets the step moves POS past gives the same next state. -/
def Obligations.UnreadBytesDoNotMatter : Prop :=
  ∀ (s t : State) (m : Memory), s.request = none → s.fsm = .decode → step s = .next t →
    t.fsm ≠ .error → (∀ k, s.pos ≤ k → k < t.pos → m.read k = s.input.read k) →
    step { s with input := m } = .next { t with input := m }

/-- OUT is append-only (20_memory.md, section 1): without a host move no byte of it is changed. -/
def Obligations.OutputIsAppendOnly : Prop :=
  ∀ s t : State, s.request = none → step s = .next t → ∃ bs, t.out = s.out ++ bs

/-- POS only increases, by at most 5 in the loop and by 14 in the header step, and stays within IN
(10_state.md, section 4). -/
def Obligations.CursorMovesForward : Prop :=
  ∀ s t : State, StateInv s → s.request = none → step s = .next t →
    s.pos ≤ t.pos ∧ t.pos ≤ t.input.size ∧ t.pos ≤ s.pos + (if s.fsm = .header then 14 else 5)

/-- The parameters never change, and IN and N change only by a host move (10_state.md, section 7;
00_scope.md, section 4; log entries 1 and 2). -/
def Obligations.InputAndParametersAreFixed : Prop :=
  ∀ s t : State, step s = .next t →
    t.cfg = s.cfg ∧ (s.request = none → t.input = s.input ∧ t.request = none)

/-- The second cache invariant (10_state.md, section 3, an inference of the spec's own): a chunk other
than a run leaves CACHE[hash(PX)] = PX, and no step of the block undoes it. -/
def Obligations.PxStaysInTheCache : Prop :=
  (∀ (i : Instr) (s t : State), i.place = .chunkStream → (∀ n, i ≠ .run n) → exec i s = .next t →
    PxCached t) ∧
  (∀ s t : State, s.request = none → PxCached s → step s = .next t → PxCached t)

/-- Pixel number COUNT lands at bytes COUNT * CHANNELS on, CHANNELS of them, as r, g, b and, when
CHANNELS = 4, a (20_memory.md, section 6). -/
def Obligations.PixelLandsAtItsOffset : Prop :=
  ∀ s t : State, StateInv s → s.request = none → s.fsm = .decode → step s = .next t → t.fsm ≠ .error →
    (t.out.drop (s.count * s.channels.toNat)).take s.channels.toNat =
      (if s.channels = 4#8 then [t.px.r, t.px.g, t.px.b, t.px.a] else [t.px.r, t.px.g, t.px.b]) ∧
    t.out.length = (s.count + 1) * s.channels.toNat

/-! ### The host -/

/-- File-mode start (41_decode_loop.md, section 1; the spec's decision): every piece of state at its
start value, IN and N bound to the bytes supplied, STATE = HEADER. -/
def Obligations.FileStartInitialises : Prop :=
  ∀ (s : State) (bytes : List Byte), s.request = some (.startFile bytes) →
    s.fsm = .idle ∨ s.fsm = .done ∨ s.fsm = .error → cursorHolds s.cfg bytes.length = true →
    ∃ t, step s = .next t ∧ Seeded t ∧ Unconfigured t ∧ t.fsm = .header ∧ t.err = .none ∧
      t.input.size = bytes.length ∧ (∀ k, t.input.read k = bytes[k]?) ∧ t.request = none ∧
      t.cfg = s.cfg

/-- Core-mode start (41_decode_loop.md, section 1; the spec's decision): a legal configuration is loaded
and the loop entered with POS = 0; an illegal one ends in ERROR, the dimension check first, with the
configuration registers 0. -/
def Obligations.CoreStartConfigures : Prop :=
  ∀ (s : State) (w h : BitVec 32) (c cs : Byte) (bytes : List Byte),
    s.request = some (.startCore w h c cs bytes) →
    s.fsm = .idle ∨ s.fsm = .done ∨ s.fsm = .error → cursorHolds s.cfg bytes.length = true →
    ∃ t, step s = .next t ∧ Seeded t ∧ t.input.size = bytes.length ∧
      (∀ k, t.input.read k = bytes[k]?) ∧ t.request = none ∧ t.cfg = s.cfg ∧
      if w = 0#32 ∨ h = 0#32 ∨ 2 ^ s.cfg.cntW.bits ≤ w.toNat * h.toNat then
        t.fsm = .error ∧ t.err = .invalidDimensions ∧ Unconfigured t
      else if c = 3#8 ∨ c = 4#8 then t.fsm = .decode ∧ t.err = .none ∧ Configured w h c cs t
      else t.fsm = .error ∧ t.err = .invalidChannels ∧ Unconfigured t

/-- Hardware reset in ANY state (70_reset_and_hazards.md, section 1; the spec's decision): every piece of
state at its reset value, STATE = IDLE. That the parameters and the bound input stay is the model's
(log entries 2 and 11). -/
def Obligations.HardwareResetFromAnyState : Prop :=
  ∀ s : State, s.request = some .hardwareReset →
    ∃ t, step s = .next t ∧ Seeded t ∧ Unconfigured t ∧ t.fsm = .idle ∧ t.err = .none ∧
      t.request = none ∧ t.cfg = s.cfg ∧ t.input = s.input

/-- A start while STATE is HEADER or DECODE is outside the host table and is refused by name
(70_reset_and_hazards.md, section 2; 93_implementation_defined.md U7; log entry 6). -/
def Obligations.StartWhileBusyIsRefused : Prop :=
  ∀ (s : State) (m : HostMove), s.request = some m → m ≠ .hardwareReset →
    s.fsm = .header ∨ s.fsm = .decode → step s = .refused .startWhileBusy

/-- Nothing of an earlier decode survives a start (70_reset_and_hazards.md, section 1): two blocks with
the same parameters, neither busy, answer the same start with the same state. -/
def Obligations.StartForgetsThePast : Prop :=
  ∀ (s u : State) (m : HostMove), s.request = some m → u.request = some m → m ≠ .hardwareReset →
    s.cfg = u.cfg → (s.fsm ≠ .header ∧ s.fsm ≠ .decode) → (u.fsm ≠ .header ∧ u.fsm ≠ .decode) →
    step s = step u

/-- In DONE the result is the header and OUT, with exactly WIDTH * HEIGHT * CHANNELS bytes; in ERROR it
is the code alone (41_decode_loop.md, section 4; 10_state.md, section 7). -/
def Obligations.ResultOfADecode : Prop :=
  ∀ s : State, StateInv s →
    (s.fsm = .done →
      resultOf s = some (.ok s.width s.height s.channels s.colorspace s.out) ∧
      s.out.length = s.width.toNat * s.height.toNat * s.channels.toNat) ∧
    (s.fsm = .error → resultOf s = some (.err s.err) ∧ s.err ≠ .none)

/-- The window ports (20_memory.md, section 9, the spec's decision): at every offset exactly one of
`in_avail` and `in_eos`, and a data byte exactly where `in_avail`. -/
def Obligations.WindowPortsAreExclusive : Prop :=
  ∀ (s : State) (j : Nat),
    (inAvail s j = !inEos s j) ∧ ((inData s j).isSome = inAvail s j)

/-! ### Reset and the invariant -/

/-- The state after reset (10_state.md, section 9): the seeds, everything else 0, IDLE, no error; nothing
bound and nothing asked is the model's (log entries 1 and 5). -/
def Obligations.ResetState : Prop :=
  Seeded State.reset ∧ Unconfigured State.reset ∧ State.reset.fsm = .idle ∧
    State.reset.err = .none ∧ State.reset.input.size = 0 ∧ State.reset.request = none

/-- The invariant holds after reset. -/
def Obligations.InvAtReset : Prop := StateInv State.reset

/-- The invariant (41_decode_loop.md, section 4; 10_state.md, sections 3 to 7): every step keeps it, the
host's moves included, from every state that has it, reachable or not. -/
def Obligations.InvKeptByStep : Prop :=
  ∀ s t : State, StateInv s → step s = .next t → StateInv t

/-! ### The parameters -/

/-- The widths are positive (00_scope.md, section 4), so no CNT_W makes the configuration check refuse the
dimensions 1 x 1: there it fails for the channel byte only. Whether the start's bytes fit the cursor is
another check (log entry 3). That widths are held so that 0 cannot be written is the model's (log
entry 2). -/
def Obligations.OnePixelDimensionsPassTheCheck : Prop :=
  ∀ (cfg : Config) (c : Byte),
    0 < cfg.cntW.bits ∧ (∀ w, cfg.posW = some w → 0 < w.bits) ∧
    (checkConfig cfg 1#32 1#32 c = none ↔ c = 3#8 ∨ c = 4#8)
end

