-- ==== Sys2Proof/Laws/State.lean ====
section
/-! SUPPORT. One lemma per field per update of State, so that no proof unfolds a record update. -/

namespace Sys2Proof.Machine

/-! ### remember -/

@[simp] theorem remember_px (p : Pixel) (s : State) : (remember p s).px = s.px := rfl
@[simp] theorem remember_cache (p : Pixel) (s : State) : (remember p s).cache = writeCache s.cache (pixelHash p) p := rfl
@[simp] theorem remember_pos (p : Pixel) (s : State) : (remember p s).pos = s.pos := rfl
@[simp] theorem remember_width (p : Pixel) (s : State) : (remember p s).width = s.width := rfl
@[simp] theorem remember_height (p : Pixel) (s : State) : (remember p s).height = s.height := rfl
@[simp] theorem remember_channels (p : Pixel) (s : State) : (remember p s).channels = s.channels := rfl
@[simp] theorem remember_colorspace (p : Pixel) (s : State) : (remember p s).colorspace = s.colorspace := rfl
@[simp] theorem remember_total (p : Pixel) (s : State) : (remember p s).total = s.total := rfl
@[simp] theorem remember_count (p : Pixel) (s : State) : (remember p s).count = s.count := rfl
@[simp] theorem remember_run (p : Pixel) (s : State) : (remember p s).run = s.run := rfl
@[simp] theorem remember_fsm (p : Pixel) (s : State) : (remember p s).fsm = s.fsm := rfl
@[simp] theorem remember_err (p : Pixel) (s : State) : (remember p s).err = s.err := rfl
@[simp] theorem remember_csNonstd (p : Pixel) (s : State) : (remember p s).csNonstd = s.csNonstd := rfl
@[simp] theorem remember_out (p : Pixel) (s : State) : (remember p s).out = s.out := rfl
@[simp] theorem remember_input (p : Pixel) (s : State) : (remember p s).input = s.input := rfl
@[simp] theorem remember_request (p : Pixel) (s : State) : (remember p s).request = s.request := rfl
@[simp] theorem remember_cfg (p : Pixel) (s : State) : (remember p s).cfg = s.cfg := rfl

/-! ### raise -/

@[simp] theorem raise_px (e : ErrCode) (s : State) : (raise e s).px = s.px := rfl
@[simp] theorem raise_cache (e : ErrCode) (s : State) : (raise e s).cache = s.cache := rfl
@[simp] theorem raise_pos (e : ErrCode) (s : State) : (raise e s).pos = s.pos := rfl
@[simp] theorem raise_width (e : ErrCode) (s : State) : (raise e s).width = s.width := rfl
@[simp] theorem raise_height (e : ErrCode) (s : State) : (raise e s).height = s.height := rfl
@[simp] theorem raise_channels (e : ErrCode) (s : State) : (raise e s).channels = s.channels := rfl
@[simp] theorem raise_colorspace (e : ErrCode) (s : State) : (raise e s).colorspace = s.colorspace := rfl
@[simp] theorem raise_total (e : ErrCode) (s : State) : (raise e s).total = s.total := rfl
@[simp] theorem raise_count (e : ErrCode) (s : State) : (raise e s).count = s.count := rfl
@[simp] theorem raise_run (e : ErrCode) (s : State) : (raise e s).run = s.run := rfl
@[simp] theorem raise_fsm (e : ErrCode) (s : State) : (raise e s).fsm = .error := rfl
@[simp] theorem raise_err (e : ErrCode) (s : State) : (raise e s).err = e := rfl
@[simp] theorem raise_csNonstd (e : ErrCode) (s : State) : (raise e s).csNonstd = s.csNonstd := rfl
@[simp] theorem raise_out (e : ErrCode) (s : State) : (raise e s).out = s.out := rfl
@[simp] theorem raise_input (e : ErrCode) (s : State) : (raise e s).input = s.input := rfl
@[simp] theorem raise_request (e : ErrCode) (s : State) : (raise e s).request = s.request := rfl
@[simp] theorem raise_cfg (e : ErrCode) (s : State) : (raise e s).cfg = s.cfg := rfl

/-! ### advance -/

@[simp] theorem advance_px (n : Nat) (s : State) : (advance n s).px = s.px := rfl
@[simp] theorem advance_cache (n : Nat) (s : State) : (advance n s).cache = s.cache := rfl
@[simp] theorem advance_pos (n : Nat) (s : State) : (advance n s).pos = s.pos + n := rfl
@[simp] theorem advance_width (n : Nat) (s : State) : (advance n s).width = s.width := rfl
@[simp] theorem advance_height (n : Nat) (s : State) : (advance n s).height = s.height := rfl
@[simp] theorem advance_channels (n : Nat) (s : State) : (advance n s).channels = s.channels := rfl
@[simp] theorem advance_colorspace (n : Nat) (s : State) : (advance n s).colorspace = s.colorspace := rfl
@[simp] theorem advance_total (n : Nat) (s : State) : (advance n s).total = s.total := rfl
@[simp] theorem advance_count (n : Nat) (s : State) : (advance n s).count = s.count := rfl
@[simp] theorem advance_run (n : Nat) (s : State) : (advance n s).run = s.run := rfl
@[simp] theorem advance_fsm (n : Nat) (s : State) : (advance n s).fsm = s.fsm := rfl
@[simp] theorem advance_err (n : Nat) (s : State) : (advance n s).err = s.err := rfl
@[simp] theorem advance_csNonstd (n : Nat) (s : State) : (advance n s).csNonstd = s.csNonstd := rfl
@[simp] theorem advance_out (n : Nat) (s : State) : (advance n s).out = s.out := rfl
@[simp] theorem advance_input (n : Nat) (s : State) : (advance n s).input = s.input := rfl
@[simp] theorem advance_request (n : Nat) (s : State) : (advance n s).request = s.request := rfl
@[simp] theorem advance_cfg (n : Nat) (s : State) : (advance n s).cfg = s.cfg := rfl

/-! ### loadConfig -/

@[simp] theorem loadConfig_px (w h : BitVec 32) (c cs : Byte) (s : State) : (loadConfig w h c cs s).px = s.px := rfl
@[simp] theorem loadConfig_cache (w h : BitVec 32) (c cs : Byte) (s : State) : (loadConfig w h c cs s).cache = s.cache := rfl
@[simp] theorem loadConfig_pos (w h : BitVec 32) (c cs : Byte) (s : State) : (loadConfig w h c cs s).pos = s.pos := rfl
@[simp] theorem loadConfig_width (w h : BitVec 32) (c cs : Byte) (s : State) : (loadConfig w h c cs s).width = w := rfl
@[simp] theorem loadConfig_height (w h : BitVec 32) (c cs : Byte) (s : State) : (loadConfig w h c cs s).height = h := rfl
@[simp] theorem loadConfig_channels (w h : BitVec 32) (c cs : Byte) (s : State) : (loadConfig w h c cs s).channels = c := rfl
@[simp] theorem loadConfig_colorspace (w h : BitVec 32) (c cs : Byte) (s : State) : (loadConfig w h c cs s).colorspace = cs := rfl
@[simp] theorem loadConfig_total (w h : BitVec 32) (c cs : Byte) (s : State) : (loadConfig w h c cs s).total = w.toNat * h.toNat := rfl
@[simp] theorem loadConfig_count (w h : BitVec 32) (c cs : Byte) (s : State) : (loadConfig w h c cs s).count = s.count := rfl
@[simp] theorem loadConfig_run (w h : BitVec 32) (c cs : Byte) (s : State) : (loadConfig w h c cs s).run = s.run := rfl
@[simp] theorem loadConfig_fsm (w h : BitVec 32) (c cs : Byte) (s : State) : (loadConfig w h c cs s).fsm = s.fsm := rfl
@[simp] theorem loadConfig_err (w h : BitVec 32) (c cs : Byte) (s : State) : (loadConfig w h c cs s).err = s.err := rfl
@[simp] theorem loadConfig_csNonstd (w h : BitVec 32) (c cs : Byte) (s : State) : (loadConfig w h c cs s).csNonstd = csNonstdOf cs := rfl
@[simp] theorem loadConfig_out (w h : BitVec 32) (c cs : Byte) (s : State) : (loadConfig w h c cs s).out = s.out := rfl
@[simp] theorem loadConfig_input (w h : BitVec 32) (c cs : Byte) (s : State) : (loadConfig w h c cs s).input = s.input := rfl
@[simp] theorem loadConfig_request (w h : BitVec 32) (c cs : Byte) (s : State) : (loadConfig w h c cs s).request = s.request := rfl
@[simp] theorem loadConfig_cfg (w h : BitVec 32) (c cs : Byte) (s : State) : (loadConfig w h c cs s).cfg = s.cfg := rfl

/-! ### enterDecode -/

@[simp] theorem enterDecode_px (n : Nat) (s : State) : (enterDecode n s).px = s.px := rfl
@[simp] theorem enterDecode_cache (n : Nat) (s : State) : (enterDecode n s).cache = s.cache := rfl
@[simp] theorem enterDecode_pos (n : Nat) (s : State) : (enterDecode n s).pos = n := rfl
@[simp] theorem enterDecode_width (n : Nat) (s : State) : (enterDecode n s).width = s.width := rfl
@[simp] theorem enterDecode_height (n : Nat) (s : State) : (enterDecode n s).height = s.height := rfl
@[simp] theorem enterDecode_channels (n : Nat) (s : State) : (enterDecode n s).channels = s.channels := rfl
@[simp] theorem enterDecode_colorspace (n : Nat) (s : State) : (enterDecode n s).colorspace = s.colorspace := rfl
@[simp] theorem enterDecode_total (n : Nat) (s : State) : (enterDecode n s).total = s.total := rfl
@[simp] theorem enterDecode_count (n : Nat) (s : State) : (enterDecode n s).count = s.count := rfl
@[simp] theorem enterDecode_run (n : Nat) (s : State) : (enterDecode n s).run = s.run := rfl
@[simp] theorem enterDecode_fsm (n : Nat) (s : State) : (enterDecode n s).fsm = .decode := rfl
@[simp] theorem enterDecode_err (n : Nat) (s : State) : (enterDecode n s).err = s.err := rfl
@[simp] theorem enterDecode_csNonstd (n : Nat) (s : State) : (enterDecode n s).csNonstd = s.csNonstd := rfl
@[simp] theorem enterDecode_out (n : Nat) (s : State) : (enterDecode n s).out = s.out := rfl
@[simp] theorem enterDecode_input (n : Nat) (s : State) : (enterDecode n s).input = s.input := rfl
@[simp] theorem enterDecode_request (n : Nat) (s : State) : (enterDecode n s).request = s.request := rfl
@[simp] theorem enterDecode_cfg (n : Nat) (s : State) : (enterDecode n s).cfg = s.cfg := rfl

/-! ### emit -/

@[simp] theorem emit_px (p : Pixel) (s : State) : (emit p s).px = s.px := by unfold emit; split <;> rfl
@[simp] theorem emit_cache (p : Pixel) (s : State) : (emit p s).cache = s.cache := by unfold emit; split <;> rfl
@[simp] theorem emit_pos (p : Pixel) (s : State) : (emit p s).pos = s.pos := by unfold emit; split <;> rfl
@[simp] theorem emit_width (p : Pixel) (s : State) : (emit p s).width = s.width := by unfold emit; split <;> rfl
@[simp] theorem emit_height (p : Pixel) (s : State) : (emit p s).height = s.height := by unfold emit; split <;> rfl
@[simp] theorem emit_channels (p : Pixel) (s : State) : (emit p s).channels = s.channels := by unfold emit; split <;> rfl
@[simp] theorem emit_colorspace (p : Pixel) (s : State) : (emit p s).colorspace = s.colorspace := by unfold emit; split <;> rfl
@[simp] theorem emit_total (p : Pixel) (s : State) : (emit p s).total = s.total := by unfold emit; split <;> rfl
@[simp] theorem emit_count (p : Pixel) (s : State) : (emit p s).count = s.count + 1 := by unfold emit; split <;> rfl
@[simp] theorem emit_run (p : Pixel) (s : State) : (emit p s).run = if s.count + 1 = s.total then 0#6 else s.run := by unfold emit; split <;> rfl
@[simp] theorem emit_fsm (p : Pixel) (s : State) : (emit p s).fsm = if s.count + 1 = s.total then .done else s.fsm := by unfold emit; split <;> rfl
@[simp] theorem emit_err (p : Pixel) (s : State) : (emit p s).err = s.err := by unfold emit; split <;> rfl
@[simp] theorem emit_csNonstd (p : Pixel) (s : State) : (emit p s).csNonstd = s.csNonstd := by unfold emit; split <;> rfl
@[simp] theorem emit_out (p : Pixel) (s : State) : (emit p s).out = s.out ++ pixelBytes s.channels p := by unfold emit; split <;> rfl
@[simp] theorem emit_input (p : Pixel) (s : State) : (emit p s).input = s.input := by unfold emit; split <;> rfl
@[simp] theorem emit_request (p : Pixel) (s : State) : (emit p s).request = s.request := by unfold emit; split <;> rfl
@[simp] theorem emit_cfg (p : Pixel) (s : State) : (emit p s).cfg = s.cfg := by unfold emit; split <;> rfl

/-! ### commit -/

@[simp] theorem commit_px (p : Pixel) (s : State) : (commit p s).px = p := by simp [commit]
@[simp] theorem commit_cache (p : Pixel) (s : State) : (commit p s).cache = writeCache s.cache (pixelHash p) p := by simp [commit]
@[simp] theorem commit_pos (p : Pixel) (s : State) : (commit p s).pos = s.pos := by simp [commit]
@[simp] theorem commit_width (p : Pixel) (s : State) : (commit p s).width = s.width := by simp [commit]
@[simp] theorem commit_height (p : Pixel) (s : State) : (commit p s).height = s.height := by simp [commit]
@[simp] theorem commit_channels (p : Pixel) (s : State) : (commit p s).channels = s.channels := by simp [commit]
@[simp] theorem commit_colorspace (p : Pixel) (s : State) : (commit p s).colorspace = s.colorspace := by simp [commit]
@[simp] theorem commit_total (p : Pixel) (s : State) : (commit p s).total = s.total := by simp [commit]
@[simp] theorem commit_count (p : Pixel) (s : State) : (commit p s).count = s.count + 1 := by simp [commit]
@[simp] theorem commit_run (p : Pixel) (s : State) : (commit p s).run = if s.count + 1 = s.total then 0#6 else s.run := emit_run p _
@[simp] theorem commit_fsm (p : Pixel) (s : State) : (commit p s).fsm = if s.count + 1 = s.total then .done else s.fsm := emit_fsm p _
@[simp] theorem commit_err (p : Pixel) (s : State) : (commit p s).err = s.err := by simp [commit]
@[simp] theorem commit_csNonstd (p : Pixel) (s : State) : (commit p s).csNonstd = s.csNonstd := by simp [commit]
@[simp] theorem commit_out (p : Pixel) (s : State) : (commit p s).out = s.out ++ pixelBytes s.channels p := by simp [commit]
@[simp] theorem commit_input (p : Pixel) (s : State) : (commit p s).input = s.input := by simp [commit]
@[simp] theorem commit_request (p : Pixel) (s : State) : (commit p s).request = s.request := by simp [commit]
@[simp] theorem commit_cfg (p : Pixel) (s : State) : (commit p s).cfg = s.cfg := by simp [commit]

/-! ### runRemember -/

@[simp] theorem runRemember_px (s : State) : (runRemember s).px = s.px := by unfold runRemember; split <;> rfl
@[simp] theorem runRemember_cache (s : State) : (runRemember s).cache = if s.cfg.runCacheWrite then writeCache s.cache (pixelHash s.px) s.px else s.cache := by unfold runRemember; split <;> rfl
@[simp] theorem runRemember_pos (s : State) : (runRemember s).pos = s.pos := by unfold runRemember; split <;> rfl
@[simp] theorem runRemember_width (s : State) : (runRemember s).width = s.width := by unfold runRemember; split <;> rfl
@[simp] theorem runRemember_height (s : State) : (runRemember s).height = s.height := by unfold runRemember; split <;> rfl
@[simp] theorem runRemember_channels (s : State) : (runRemember s).channels = s.channels := by unfold runRemember; split <;> rfl
@[simp] theorem runRemember_colorspace (s : State) : (runRemember s).colorspace = s.colorspace := by unfold runRemember; split <;> rfl
@[simp] theorem runRemember_total (s : State) : (runRemember s).total = s.total := by unfold runRemember; split <;> rfl
@[simp] theorem runRemember_count (s : State) : (runRemember s).count = s.count := by unfold runRemember; split <;> rfl
@[simp] theorem runRemember_run (s : State) : (runRemember s).run = s.run := by unfold runRemember; split <;> rfl
@[simp] theorem runRemember_fsm (s : State) : (runRemember s).fsm = s.fsm := by unfold runRemember; split <;> rfl
@[simp] theorem runRemember_err (s : State) : (runRemember s).err = s.err := by unfold runRemember; split <;> rfl
@[simp] theorem runRemember_csNonstd (s : State) : (runRemember s).csNonstd = s.csNonstd := by unfold runRemember; split <;> rfl
@[simp] theorem runRemember_out (s : State) : (runRemember s).out = s.out := by unfold runRemember; split <;> rfl
@[simp] theorem runRemember_input (s : State) : (runRemember s).input = s.input := by unfold runRemember; split <;> rfl
@[simp] theorem runRemember_request (s : State) : (runRemember s).request = s.request := by unfold runRemember; split <;> rfl
@[simp] theorem runRemember_cfg (s : State) : (runRemember s).cfg = s.cfg := by unfold runRemember; split <;> rfl

/-! ### startRun -/

@[simp] theorem startRun_px (n : BitVec 6) (s : State) : (startRun n s).px = s.px := by simp [startRun]
@[simp] theorem startRun_cache (n : BitVec 6) (s : State) : (startRun n s).cache = if s.cfg.runCacheWrite then writeCache s.cache (pixelHash s.px) s.px else s.cache := by simp [startRun]
@[simp] theorem startRun_pos (n : BitVec 6) (s : State) : (startRun n s).pos = s.pos + 1 := by simp [startRun]
@[simp] theorem startRun_width (n : BitVec 6) (s : State) : (startRun n s).width = s.width := by simp [startRun]
@[simp] theorem startRun_height (n : BitVec 6) (s : State) : (startRun n s).height = s.height := by simp [startRun]
@[simp] theorem startRun_channels (n : BitVec 6) (s : State) : (startRun n s).channels = s.channels := by simp [startRun]
@[simp] theorem startRun_colorspace (n : BitVec 6) (s : State) : (startRun n s).colorspace = s.colorspace := by simp [startRun]
@[simp] theorem startRun_total (n : BitVec 6) (s : State) : (startRun n s).total = s.total := by simp [startRun]
@[simp] theorem startRun_count (n : BitVec 6) (s : State) : (startRun n s).count = s.count + 1 := by simp [startRun]
@[simp] theorem startRun_run (n : BitVec 6) (s : State) : (startRun n s).run = if s.count + 1 = s.total then 0#6 else n := (advance_run 1 _).trans ((emit_run s.px _).trans (by simp only [runRemember_count, runRemember_total, runRemember_run]))
@[simp] theorem startRun_fsm (n : BitVec 6) (s : State) : (startRun n s).fsm = if s.count + 1 = s.total then .done else s.fsm := (advance_fsm 1 _).trans ((emit_fsm s.px _).trans (by simp only [runRemember_count, runRemember_total, runRemember_fsm]))
@[simp] theorem startRun_err (n : BitVec 6) (s : State) : (startRun n s).err = s.err := by simp [startRun]
@[simp] theorem startRun_csNonstd (n : BitVec 6) (s : State) : (startRun n s).csNonstd = s.csNonstd := by simp [startRun]
@[simp] theorem startRun_out (n : BitVec 6) (s : State) : (startRun n s).out = s.out ++ pixelBytes s.channels s.px := by simp [startRun]
@[simp] theorem startRun_input (n : BitVec 6) (s : State) : (startRun n s).input = s.input := by simp [startRun]
@[simp] theorem startRun_request (n : BitVec 6) (s : State) : (startRun n s).request = s.request := by simp [startRun]
@[simp] theorem startRun_cfg (n : BitVec 6) (s : State) : (startRun n s).cfg = s.cfg := by simp [startRun]

/-! ### runContinue -/

@[simp] theorem runContinue_px (s : State) : (runContinue s).px = s.px := by simp [runContinue]
@[simp] theorem runContinue_cache (s : State) : (runContinue s).cache = s.cache := by simp [runContinue]
@[simp] theorem runContinue_pos (s : State) : (runContinue s).pos = s.pos := by simp [runContinue]
@[simp] theorem runContinue_width (s : State) : (runContinue s).width = s.width := by simp [runContinue]
@[simp] theorem runContinue_height (s : State) : (runContinue s).height = s.height := by simp [runContinue]
@[simp] theorem runContinue_channels (s : State) : (runContinue s).channels = s.channels := by simp [runContinue]
@[simp] theorem runContinue_colorspace (s : State) : (runContinue s).colorspace = s.colorspace := by simp [runContinue]
@[simp] theorem runContinue_total (s : State) : (runContinue s).total = s.total := by simp [runContinue]
@[simp] theorem runContinue_count (s : State) : (runContinue s).count = s.count + 1 := by simp [runContinue]
@[simp] theorem runContinue_run (s : State) : (runContinue s).run = if s.count + 1 = s.total then 0#6 else s.run - 1#6 := emit_run s.px _
@[simp] theorem runContinue_fsm (s : State) : (runContinue s).fsm = if s.count + 1 = s.total then .done else s.fsm := emit_fsm s.px _
@[simp] theorem runContinue_err (s : State) : (runContinue s).err = s.err := by simp [runContinue]
@[simp] theorem runContinue_csNonstd (s : State) : (runContinue s).csNonstd = s.csNonstd := by simp [runContinue]
@[simp] theorem runContinue_out (s : State) : (runContinue s).out = s.out ++ pixelBytes s.channels s.px := by simp [runContinue]
@[simp] theorem runContinue_input (s : State) : (runContinue s).input = s.input := by simp [runContinue]
@[simp] theorem runContinue_request (s : State) : (runContinue s).request = s.request := by simp [runContinue]
@[simp] theorem runContinue_cfg (s : State) : (runContinue s).cfg = s.cfg := by simp [runContinue]

/-! ### initial -/

@[simp] theorem initial_px (cfg : Config) (m : Memory) : (initial cfg m).px = seedPixel := rfl
@[simp] theorem initial_cache (cfg : Config) (m : Memory) : (initial cfg m).cache = Vector.replicate 64 zeroPixel := rfl
@[simp] theorem initial_pos (cfg : Config) (m : Memory) : (initial cfg m).pos = 0 := rfl
@[simp] theorem initial_width (cfg : Config) (m : Memory) : (initial cfg m).width = 0#32 := rfl
@[simp] theorem initial_height (cfg : Config) (m : Memory) : (initial cfg m).height = 0#32 := rfl
@[simp] theorem initial_channels (cfg : Config) (m : Memory) : (initial cfg m).channels = 0#8 := rfl
@[simp] theorem initial_colorspace (cfg : Config) (m : Memory) : (initial cfg m).colorspace = 0#8 := rfl
@[simp] theorem initial_total (cfg : Config) (m : Memory) : (initial cfg m).total = 0 := rfl
@[simp] theorem initial_count (cfg : Config) (m : Memory) : (initial cfg m).count = 0 := rfl
@[simp] theorem initial_run (cfg : Config) (m : Memory) : (initial cfg m).run = 0#6 := rfl
@[simp] theorem initial_fsm (cfg : Config) (m : Memory) : (initial cfg m).fsm = .idle := rfl
@[simp] theorem initial_err (cfg : Config) (m : Memory) : (initial cfg m).err = .none := rfl
@[simp] theorem initial_csNonstd (cfg : Config) (m : Memory) : (initial cfg m).csNonstd = false := rfl
@[simp] theorem initial_out (cfg : Config) (m : Memory) : (initial cfg m).out = [] := rfl
@[simp] theorem initial_input (cfg : Config) (m : Memory) : (initial cfg m).input = m := rfl
@[simp] theorem initial_request (cfg : Config) (m : Memory) : (initial cfg m).request = none := rfl
@[simp] theorem initial_cfg (cfg : Config) (m : Memory) : (initial cfg m).cfg = cfg := rfl

/-! ### startedFile -/

@[simp] theorem startedFile_px (cfg : Config) (bs : List Byte) : (startedFile cfg bs).px = seedPixel := rfl
@[simp] theorem startedFile_cache (cfg : Config) (bs : List Byte) : (startedFile cfg bs).cache = Vector.replicate 64 zeroPixel := rfl
@[simp] theorem startedFile_pos (cfg : Config) (bs : List Byte) : (startedFile cfg bs).pos = 0 := rfl
@[simp] theorem startedFile_width (cfg : Config) (bs : List Byte) : (startedFile cfg bs).width = 0#32 := rfl
@[simp] theorem startedFile_height (cfg : Config) (bs : List Byte) : (startedFile cfg bs).height = 0#32 := rfl
@[simp] theorem startedFile_channels (cfg : Config) (bs : List Byte) : (startedFile cfg bs).channels = 0#8 := rfl
@[simp] theorem startedFile_colorspace (cfg : Config) (bs : List Byte) : (startedFile cfg bs).colorspace = 0#8 := rfl
@[simp] theorem startedFile_total (cfg : Config) (bs : List Byte) : (startedFile cfg bs).total = 0 := rfl
@[simp] theorem startedFile_count (cfg : Config) (bs : List Byte) : (startedFile cfg bs).count = 0 := rfl
@[simp] theorem startedFile_run (cfg : Config) (bs : List Byte) : (startedFile cfg bs).run = 0#6 := rfl
@[simp] theorem startedFile_fsm (cfg : Config) (bs : List Byte) : (startedFile cfg bs).fsm = .header := rfl
@[simp] theorem startedFile_err (cfg : Config) (bs : List Byte) : (startedFile cfg bs).err = .none := rfl
@[simp] theorem startedFile_csNonstd (cfg : Config) (bs : List Byte) : (startedFile cfg bs).csNonstd = false := rfl
@[simp] theorem startedFile_out (cfg : Config) (bs : List Byte) : (startedFile cfg bs).out = [] := rfl
@[simp] theorem startedFile_input (cfg : Config) (bs : List Byte) : (startedFile cfg bs).input = Memory.ofBytes bs := rfl
@[simp] theorem startedFile_request (cfg : Config) (bs : List Byte) : (startedFile cfg bs).request = none := rfl
@[simp] theorem startedFile_cfg (cfg : Config) (bs : List Byte) : (startedFile cfg bs).cfg = cfg := rfl

end Sys2Proof.Machine
end

