-- ==== Sys2Proof/Laws/Cache.lean ====
section
/-! SUPPORT. Reading after writing a cache entry, and the value of the hash. -/

namespace Sys2Proof.Machine

@[simp] theorem readCache_writeCache_same (c : Vector Pixel 64) (i : BitVec 6) (p : Pixel) :
    readCache (writeCache c i p) i = p := by
  simp [readCache, writeCache]

theorem readCache_writeCache_ne (c : Vector Pixel 64) {i j : BitVec 6} (p : Pixel) (h : j ≠ i) :
    readCache (writeCache c i p) j = readCache c j := by
  have hn : i.toNat ≠ j.toNat := fun e => h (BitVec.eq_of_toNat_eq e.symm)
  simp [readCache, writeCache, Vector.getElem_set_ne _ _ hn]

theorem readCache_writeCache (c : Vector Pixel 64) (i j : BitVec 6) (p : Pixel) :
    readCache (writeCache c i p) j = if j = i then p else readCache c j := by
  split
  · next h => subst h; simp
  · next h => exact readCache_writeCache_ne c p h

@[simp] theorem readCache_replicate (p : Pixel) (i : BitVec 6) :
    readCache (Vector.replicate 64 p) i = p := by
  simp [readCache]

/-- Two caches that read the same at every index are the same. -/
theorem cache_ext {c d : Vector Pixel 64} (h : ∀ i : BitVec 6, readCache c i = readCache d i) : c = d := by
  apply Vector.ext
  intro i hi
  simpa [readCache, Nat.mod_eq_of_lt hi] using h (BitVec.ofNat 6 i)

theorem pixelHash_toNat (p : Pixel) :
    (pixelHash p).toNat = (p.r.toNat * 3 + p.g.toNat * 5 + p.b.toNat * 7 + p.a.toNat * 11) % 64 := by
  simp [pixelHash]

/-- Every cache write is of the form CACHE[hash(p)] <- p, so the cache invariant is kept (R26). -/
theorem cacheInv_write {s t : State} {p : Pixel} (h : CacheInv s)
    (ht : t.cache = writeCache s.cache (pixelHash p) p) : CacheInv t := by
  intro i
  rw [ht, readCache_writeCache]
  split
  · next e => exact .inr e.symm
  · exact h i

theorem cacheInv_same {s t : State} (h : CacheInv s) (ht : t.cache = s.cache) : CacheInv t := by
  unfold CacheInv at *; rwa [ht]

end Sys2Proof.Machine
end

