-- ==== Sys2Proof/Laws/Memory.lean ====
section
/-! SUPPORT. The input space: what a bound byte sequence reads as, reading after the host's write, and that
every operation keeps the canonical form. -/

namespace Sys2Proof.Machine

/-! ### Reading -/

theorem Memory.read_eq_some {m : Memory} {k : Nat} (h : k < m.size) :
    m.read k = some (Memory.lookup k m.cells) := by simp [Memory.read, h]

theorem Memory.read_eq_none {m : Memory} {k : Nat} (h : m.size ≤ k) : m.read k = none := by
  simp [Memory.read, Nat.not_lt.mpr h]

theorem Memory.lookup_cellsOf_below (bs : List Byte) {k j : Nat} (h : j < k) :
    Memory.lookup j (Memory.cellsOf k bs) = Memory.unlisted := by
  induction bs generalizing k with
  | nil => rfl
  | cons b bs ih =>
    unfold Memory.cellsOf
    split
    · exact ih (by omega)
    · simp [Memory.lookup, show k ≠ j by omega, ih (show j < k + 1 by omega)]

theorem Memory.lookup_cellsOf (bs : List Byte) (k j : Nat) :
    Memory.lookup (k + j) (Memory.cellsOf k bs) = bs.getD j Memory.unlisted := by
  induction bs generalizing k j with
  | nil => rfl
  | cons b bs ih =>
    cases j with
    | zero =>
      unfold Memory.cellsOf
      split
      · next h => simp [h, Memory.lookup_cellsOf_below]
      · simp [Memory.lookup]
    | succ j =>
      have e := ih (k + 1) j
      rw [show k + 1 + j = k + (j + 1) by omega] at e
      unfold Memory.cellsOf
      split
      · simpa using e
      · simpa [Memory.lookup] using e

/-- Binding a byte sequence to IN: N is its length and IN[k] its k-th byte. -/
theorem Memory.read_ofBytes (bs : List Byte) (k : Nat) : (Memory.ofBytes bs).read k = bs[k]? := by
  have e := Memory.lookup_cellsOf bs 0 k
  rw [Nat.zero_add] at e
  by_cases h : k < bs.length
  · simp [Memory.read, Memory.ofBytes, h, e, List.getD]
  · simp [Memory.read, Memory.ofBytes, h]

@[simp] theorem Memory.ofBytes_size (bs : List Byte) : (Memory.ofBytes bs).size = bs.length := rfl

/-! ### Windows -/

/-- A window has the bytes asked for, as far as N allows. -/
theorem Memory.window_length (m : Memory) (a n : Nat) : (m.window a n).length = min n (m.size - a) := by
  induction n generalizing a with
  | zero => simp [Memory.window]
  | succ n ih =>
    by_cases h : a < m.size
    · simp only [Memory.window, Memory.read_eq_some h, List.length_cons, ih]; omega
    · simp only [Memory.window, Memory.read_eq_none (Nat.not_lt.mp h), List.length_nil]; omega

theorem Memory.window_succ {m : Memory} {a : Nat} (n : Nat) (h : a < m.size) :
    m.window a (n + 1) = Memory.lookup a m.cells :: m.window (a + 1) n := by
  simp [Memory.window, Memory.read_eq_some h]

/-- Two inputs that agree on the offsets of a window have the same window. -/
theorem Memory.window_congr {m m' : Memory} {a n : Nat}
    (h : ∀ k, a ≤ k → k < a + n → m.read k = m'.read k) : m.window a n = m'.window a n := by
  induction n generalizing a with
  | zero => rfl
  | succ n ih =>
    simp only [Memory.window, ← h a (Nat.le_refl a) (by omega)]
    rw [ih (fun k h1 h2 => h k (by omega) (by omega))]

/-- A shorter window is the front of a longer one. -/
theorem Memory.window_take (m : Memory) (a : Nat) {k n : Nat} (h : k ≤ n) :
    (m.window a n).take k = m.window a k := by
  induction n generalizing a k with
  | zero => obtain rfl := Nat.le_zero.mp h; simp [Memory.window]
  | succ n ih =>
    cases k with
    | zero => simp [Memory.window]
    | succ k =>
      simp only [Memory.window]
      cases m.read a with
      | none => rfl
      | some b => simp only [List.take_succ_cons, ih (a + 1) (Nat.le_of_succ_le_succ h)]

/-- A window onto a bound byte sequence is the part of it from that offset on. -/
theorem Memory.window_ofBytes (bs : List Byte) (a n : Nat) :
    (Memory.ofBytes bs).window a n = (bs.drop a).take n := by
  induction n generalizing a with
  | zero => simp [Memory.window]
  | succ n ih =>
    simp only [Memory.window, Memory.read_ofBytes]
    by_cases h : a < bs.length
    · simp only [List.getElem?_eq_getElem h, ih, List.drop_eq_getElem_cons h, List.take_succ_cons]
    · simp only [List.getElem?_eq_none (Nat.not_lt.mp h), List.drop_eq_nil_of_le (Nat.not_lt.mp h),
        List.take_nil]

/-- An input whose bytes from an offset on are those of `bs` has `bs` as its window there. -/
theorem Memory.window_of_reads {m : Memory} {a : Nat} {bs : List Byte}
    (h : ∀ k, k < bs.length → m.read (a + k) = bs[k]?) : m.window a bs.length = bs := by
  induction bs generalizing a with
  | nil => rfl
  | cons b bs ih =>
    have h0 := h 0 (by simp)
    simp only [Nat.add_zero, List.getElem?_cons_zero] at h0
    simp only [List.length_cons, Memory.window, h0]
    rw [ih (fun k hk => ?_)]
    have e := h (k + 1) (by simpa using hk)
    rwa [← Nat.add_assoc, List.getElem?_cons_succ, Nat.add_right_comm] at e

/-! ### The canonical form -/

theorem Memory.cellsWf_mono {cs : List Host.Cell} {lo lo' n : Nat} (hl : lo' ≤ lo)
    (h : Memory.cellsWf lo n cs = true) : Memory.cellsWf lo' n cs = true := by
  cases cs with
  | nil => rfl
  | cons c cs =>
    simp only [Memory.cellsWf, Bool.and_eq_true, decide_eq_true_eq] at h ⊢
    exact ⟨⟨⟨Nat.le_trans hl h.1.1.1, h.1.1.2⟩, h.1.2⟩, h.2⟩

theorem Memory.cellsWf_grow {cs : List Host.Cell} {lo n n' : Nat} (hn : n ≤ n')
    (h : Memory.cellsWf lo n cs = true) : Memory.cellsWf lo n' cs = true := by
  induction cs generalizing lo with
  | nil => rfl
  | cons c cs ih =>
    simp only [Memory.cellsWf, Bool.and_eq_true, decide_eq_true_eq] at h ⊢
    exact ⟨⟨⟨h.1.1.1, Nat.lt_of_lt_of_le h.1.1.2 hn⟩, h.1.2⟩, ih h.2⟩

theorem Memory.cellsWf_cellsOf (bs : List Byte) (k : Nat) :
    Memory.cellsWf k (k + bs.length) (Memory.cellsOf k bs) = true := by
  induction bs generalizing k with
  | nil => rfl
  | cons b bs ih =>
    have e : Memory.cellsWf (k + 1) (k + (b :: bs).length) (Memory.cellsOf (k + 1) bs) = true := by
      have := ih (k + 1)
      rwa [show k + 1 + bs.length = k + (b :: bs).length by simp; omega] at this
    unfold Memory.cellsOf
    split
    · exact Memory.cellsWf_mono (Nat.le_succ k) e
    · next h => simpa [Memory.cellsWf, h] using e

theorem Memory.wf_ofBytes (bs : List Byte) : (Memory.ofBytes bs).wf = true := by
  have := Memory.cellsWf_cellsOf bs 0
  simpa [Memory.wf, Memory.ofBytes] using this

theorem Memory.cellsWf_setCell {cs : List Host.Cell} {lo n : Nat} (k : Nat) (v : Byte)
    (hl : lo ≤ k) (hk : k < n) (h : Memory.cellsWf lo n cs = true) :
    Memory.cellsWf lo n (Memory.setCell k v cs) = true := by
  induction cs generalizing lo with
  | nil =>
    unfold Memory.setCell
    split <;> simp_all [Memory.cellsWf]
  | cons c cs ih =>
    have hc := h
    simp only [Memory.cellsWf, Bool.and_eq_true, decide_eq_true_eq] at h
    obtain ⟨⟨⟨h1, h2⟩, h3⟩, h4⟩ := h
    simp only [Memory.setCell]
    split
    · next hka =>
      split
      · exact hc
      · next hv => simp [Memory.cellsWf, hl, hk, hv, hka, h2, h3, h4]
    · split
      · next hka =>
        subst hka
        split
        · exact Memory.cellsWf_mono (by omega) h4
        · next hv => simp [Memory.cellsWf, hl, hk, hv, h4]
      · simp [Memory.cellsWf, h1, h2, h3, ih (show c.1 + 1 ≤ k by omega) h4]

theorem Memory.wf_store {m : Memory} (k : Nat) (v : Byte) (h : m.wf = true) : (m.store k v).wf = true :=
  Memory.cellsWf_setCell k v (Nat.zero_le k) (by simp only [Memory.store]; omega)
    (Memory.cellsWf_grow (by simp only [Memory.store]; omega) h)

theorem Memory.wf_storeBytes {m : Memory} (k : Nat) (bs : List Byte) (h : m.wf = true) :
    (m.storeBytes k bs).wf = true := by
  induction bs generalizing m k with
  | nil => exact h
  | cons b bs ih => exact ih (k + 1) (Memory.wf_store k b h)

/-! ### Reading after the host's write -/

theorem Memory.lookup_below {cs : List Host.Cell} {lo n k : Nat} (h : Memory.cellsWf lo n cs = true)
    (hk : k < lo) : Memory.lookup k cs = Memory.unlisted := by
  induction cs generalizing lo with
  | nil => rfl
  | cons c cs ih =>
    simp only [Memory.cellsWf, Bool.and_eq_true, decide_eq_true_eq] at h
    have : c.1 ≠ k := by omega
    simp only [Memory.lookup, this, if_false]
    exact ih h.2 (by omega)

theorem Memory.lookup_setCell {cs : List Host.Cell} {lo n : Nat} (k : Nat) (v : Byte) (j : Nat)
    (h : Memory.cellsWf lo n cs = true) :
    Memory.lookup j (Memory.setCell k v cs) = if j = k then v else Memory.lookup j cs := by
  induction cs generalizing lo with
  | nil =>
    unfold Memory.setCell
    by_cases hv : v = Memory.unlisted
    · simp [hv, Memory.lookup]
    · simp [hv, Memory.lookup, eq_comm]
  | cons c cs ih =>
    have hc := h
    simp only [Memory.cellsWf, Bool.and_eq_true, decide_eq_true_eq] at h
    obtain ⟨⟨⟨h1, h2⟩, h3⟩, h4⟩ := h
    simp only [Memory.setCell]
    split
    · next hka =>
      have hj : Memory.lookup k (c :: cs) = Memory.unlisted :=
        Memory.lookup_below (lo := c.1) (n := n)
          (by simp [Memory.cellsWf, h2, h3, h4]) hka
      by_cases hv : v = Memory.unlisted
      · by_cases e : j = k
        · subst e; simpa [hv] using hj
        · simp [hv, e]
      · by_cases e : j = k
        · simp [hv, e, Memory.lookup]
        · simp [hv, e, Memory.lookup, Ne.symm e]
    · split
      · next hka =>
        subst hka
        have hj : Memory.lookup c.1 cs = Memory.unlisted := Memory.lookup_below h4 (Nat.lt_succ_self _)
        by_cases hv : v = Memory.unlisted
        · by_cases e : j = c.1
          · simp [hv, e, hj]
          · simp [hv, e, Memory.lookup, Ne.symm e]
        · by_cases e : j = c.1
          · simp [hv, e, Memory.lookup]
          · simp [hv, e, Memory.lookup, Ne.symm e]
      · next hka =>
        simp only [Memory.lookup, ih h4]
        by_cases e : c.1 = j
        · simp [e, show j ≠ k by omega]
        · simp [e]

/-- The byte written is the byte read. -/
theorem Memory.read_store_same {m : Memory} (k : Nat) (v : Byte) (h : m.wf = true) :
    (m.store k v).read k = some v := by
  rw [Memory.read_eq_some (by simp only [Memory.store]; omega)]
  simp [Memory.store, Memory.lookup_setCell k v k h]

/-- Every other byte that existed reads as before. -/
theorem Memory.read_store_other {m : Memory} {k j : Nat} (v : Byte) (h : m.wf = true) (hj : j ≠ k)
    (hs : j < m.size) : (m.store k v).read j = m.read j := by
  rw [Memory.read_eq_some hs, Memory.read_eq_some (by simp only [Memory.store]; omega)]
  simp [Memory.store, Memory.lookup_setCell k v j h, hj]

end Sys2Proof.Machine
end

