-- ==== Sys2Proof/Laws/Decode.lean ====
section
/-! SUPPORT. What the decoder answers: a chunk is well formed and as long as its tag says, it fails only for
want of bytes, and it looks at no byte past the chunk. -/

namespace Sys2Proof

/-- The run's tag bytes are 0xC0 to 0xFD, so its stored field is at most 61 (R81). -/
theorem classify_run_field : ∀ b0 : Byte, classify b0 = .run → (lowSix b0).toNat ≤ 61 := by decide

/-! ### Fields and tags, both ways -/

/-- `be32` is the sum R10 gives. -/
theorem be32_toNat (a b c d : Byte) :
    (be32 a b c d).toNat = a.toNat * 2 ^ 24 + b.toNat * 2 ^ 16 + c.toNat * 2 ^ 8 + d.toNat := by
  have := a.isLt; have := b.isLt; have := c.isLt; have := d.isLt
  simp only [be32, BitVec.toNat_append]
  rw [← Nat.shiftLeft_add_eq_or_of_lt (by omega), ← Nat.shiftLeft_add_eq_or_of_lt (by omega),
    ← Nat.shiftLeft_add_eq_or_of_lt (by omega)]
  simp only [Nat.shiftLeft_eq]
  omega

/-- The bytes of a big-endian value are the bytes it was made of. -/
theorem be32Bytes_be32 (a b c d : Byte) : be32Bytes (be32 a b c d) = [a, b, c, d] := by
  have := a.isLt; have := b.isLt; have := c.isLt; have := d.isLt
  have e : ∀ (k : Nat) (x : Byte), (be32 a b c d).toNat / 2 ^ k % 256 = x.toNat →
      (be32 a b c d).extractLsb' k 8 = x := fun k x h =>
    BitVec.eq_of_toNat_eq (by simpa [BitVec.extractLsb'_toNat, Nat.shiftRight_eq_div_pow] using h)
  simp only [be32_toNat] at e
  rw [be32Bytes, e 24 a (by omega), e 16 b (by omega), e 8 c (by omega), e 0 d (by omega)]

/-- A big-endian value is the value of its bytes. -/
theorem be32_be32Bytes (w : BitVec 32) :
    be32 (w.extractLsb' 24 8) (w.extractLsb' 16 8) (w.extractLsb' 8 8) (w.extractLsb' 0 8) = w := by
  apply BitVec.eq_of_toNat_eq
  have := w.isLt
  simp only [be32_toNat, BitVec.extractLsb'_toNat, Nat.shiftRight_eq_div_pow]
  omega

theorem classify_index : ∀ i : BitVec 6,
    classify (0b00#2 ++ i : BitVec 8) = .index ∧ lowSix (0b00#2 ++ i : BitVec 8) = i := by decide

theorem classify_diff : ∀ a b c : BitVec 2,
    classify (diffByte a b c) = .diff ∧ diffFields (diffByte a b c) = (a, b, c) := by decide

theorem classify_luma : ∀ i : BitVec 6,
    classify (0b10#2 ++ i : BitVec 8) = .luma ∧ lowSix (0b10#2 ++ i : BitVec 8) = i := by decide

theorem classify_run : ∀ n : BitVec 6, n.toNat ≤ 61 →
    classify (0b11#2 ++ n : BitVec 8) = .run ∧ lowSix (0b11#2 ++ n : BitVec 8) = n := by decide

theorem lumaFields_lumaByte : ∀ a b : BitVec 4, lumaFields (lumaByte a b) = (a, b) := by decide

/-! ### The chunk decoder -/

@[simp] theorem decodeChunk_nil : decodeChunk [] = .error .noTag := rfl

theorem decodeChunk_cons (b0 : Byte) (bs : List Byte) :
    decodeChunk (b0 :: bs) = decodeBody b0 (classify b0) bs := rfl

/-- A chunk with all of its bytes decodes, to a well-formed chunk of the tag's length (R75, R84). -/
theorem decodeChunk_long (b0 : Byte) (bs : List Byte) (h : chunkLength (classify b0) ≤ bs.length + 1) :
    ∃ i, decodeChunk (b0 :: bs) = .ok (i, bs.drop (chunkLength (classify b0) - 1)) ∧
      i.wf = true ∧ i.place = .chunkStream ∧ i.byteLength = chunkLength (classify b0) := by
  have hrun := classify_run_field b0
  rw [decodeChunk_cons]
  generalize classify b0 = k at h hrun
  match k, bs, h with
  | .rgba, r :: g :: b :: a :: tl, _ => exact ⟨.rgba r g b a, rfl, rfl, rfl, rfl⟩
  | .rgb, r :: g :: b :: tl, _ => exact ⟨.rgb r g b, rfl, rfl, rfl, rfl⟩
  | .index, tl, _ => exact ⟨.index (lowSix b0), rfl, rfl, rfl, rfl⟩
  | .diff, tl, _ => exact ⟨.diff _ _ _, rfl, rfl, rfl, rfl⟩
  | .luma, b1 :: tl, _ => exact ⟨.luma _ _ _, rfl, rfl, rfl, rfl⟩
  | .run, tl, _ => exact ⟨.run (lowSix b0), rfl, by simpa [Instr.wf] using hrun rfl, rfl, rfl⟩

/-- A chunk without all of its bytes does not decode (R124 (b)). -/
theorem decodeChunk_short (b0 : Byte) (bs : List Byte) (h : bs.length + 1 < chunkLength (classify b0)) :
    decodeChunk (b0 :: bs) = .error .shortChunk := by
  rw [decodeChunk_cons]
  generalize classify b0 = k at h
  match k, bs, h with
  | .rgba, [], _ | .rgba, [_], _ | .rgba, [_, _], _ | .rgba, [_, _, _], _ => rfl
  | .rgb, [], _ | .rgb, [_], _ | .rgb, [_, _], _ => rfl
  | .luma, [], _ => rfl

theorem chunkLength_le (k : ChunkKind) : 1 ≤ chunkLength k ∧ chunkLength k ≤ 5 := by
  cases k <;> decide

/-- Whatever decodes as a chunk is well formed, stands in the chunk stream, and used exactly its
bytes. -/
theorem decodeChunk_ok {bs : List Byte} {i : Instr} {rest : List Byte}
    (h : decodeChunk bs = .ok (i, rest)) :
    i.wf = true ∧ i.place = .chunkStream ∧ i.byteLength ≤ bs.length ∧ rest = bs.drop i.byteLength := by
  cases bs with
  | nil => simp at h
  | cons b0 bs =>
    by_cases hl : chunkLength (classify b0) ≤ bs.length + 1
    · obtain ⟨j, e, hw, hp, hn⟩ := decodeChunk_long b0 bs hl
      rw [e] at h
      cases h
      refine ⟨hw, hp, by rw [hn]; exact hl, ?_⟩
      rw [hn]
      have := (chunkLength_le (classify b0)).1
      obtain ⟨n, hn'⟩ : ∃ n, chunkLength (classify b0) = n + 1 := ⟨_, (Nat.sub_add_cancel this).symm⟩
      simp [hn']
    · rw [decodeChunk_short b0 bs (by omega)] at h
      cases h

/-- A header that decodes has 14 bytes and stands at the start of the file. -/
theorem decodeHeader_ok {bs : List Byte} {i : Instr} {rest : List Byte}
    (h : decodeHeader bs = .ok (i, rest)) :
    14 ≤ bs.length ∧ ∃ w ht c cs, i = .header w ht c cs := by
  match bs with
  | m0 :: m1 :: m2 :: m3 :: w0 :: w1 :: w2 :: w3 :: h0 :: h1 :: h2 :: h3 :: c :: cs :: tl =>
    simp only [decodeHeader] at h
    split at h
    · cases h
      exact ⟨by simp, _, _, _, _, rfl⟩
    · cases h
  | [] | [_] | [_, _] | [_, _, _] | [_, _, _, _] | [_, _, _, _, _] | [_, _, _, _, _, _]
  | [_, _, _, _, _, _, _] | [_, _, _, _, _, _, _, _] | [_, _, _, _, _, _, _, _, _]
  | [_, _, _, _, _, _, _, _, _, _] | [_, _, _, _, _, _, _, _, _, _, _]
  | [_, _, _, _, _, _, _, _, _, _, _, _] | [_, _, _, _, _, _, _, _, _, _, _, _, _] => cases h

end Sys2Proof

namespace Sys2Proof.Machine

/-- A chunk that was fetched is a well-formed chunk whose bytes all exist (R124). -/
theorem fetchChunk_ok {s : State} {i : Instr} (h : fetchChunk s = .ok i) :
    i.wf = true ∧ i.place = .chunkStream ∧ s.pos + i.byteLength ≤ s.input.size := by
  unfold fetchChunk at h
  cases hd : decodeChunk (s.input.window s.pos 5) with
  | error e => rw [hd] at h; cases h
  | ok p =>
    rw [hd] at h
    cases h
    obtain ⟨hw, hp, hl, -⟩ := decodeChunk_ok (i := p.1) (rest := p.2) hd
    rw [Memory.window_length] at hl
    have : 1 ≤ p.1.byteLength := by cases p.1 <;> simp [Instr.byteLength]
    exact ⟨hw, hp, by omega⟩

/-- A header that was fetched is a HEADER, and the input has at least 14 bytes (R101). -/
theorem fetchHeader_ok {s : State} {i : Instr} (h : fetchHeader s = .ok i) :
    14 ≤ s.input.size ∧ ∃ w ht c cs, i = .header w ht c cs := by
  unfold fetchHeader at h
  cases hd : decodeHeader (s.input.window 0 14) with
  | error e => rw [hd] at h; cases h
  | ok p =>
    rw [hd] at h
    cases h
    obtain ⟨hl, hi⟩ := decodeHeader_ok (i := p.1) (rest := p.2) hd
    rw [Memory.window_length] at hl
    exact ⟨by omega, hi⟩

end Sys2Proof.Machine
end

