-- ==== Sys2Proof/Laws/Exec.lean ====
section
/-! SUPPORT. One lemma per shared operation that says everything it can do. -/

namespace Sys2Proof.Machine

theorem chunkEnabled_iff (s : State) : chunkEnabled s = true ↔ s.fsm = .decode ∧ s.run = 0#6 := by
  simp [chunkEnabled]

theorem whenChunkEnabled_of {s : State} (hf : s.fsm = .decode) (hr : s.run = 0#6) (o : StepOutcome) :
    whenChunkEnabled s o = o := by
  simp [whenChunkEnabled, (chunkEnabled_iff s).mpr ⟨hf, hr⟩]

theorem whenChunkEnabled_next {s t : State} {o : StepOutcome} (h : whenChunkEnabled s o = .next t) :
    s.fsm = .decode ∧ s.run = 0#6 ∧ o = .next t := by
  unfold whenChunkEnabled at h
  split at h
  · next he => exact ⟨((chunkEnabled_iff s).mp he).1, ((chunkEnabled_iff s).mp he).2, h⟩
  · cases h

/-- What raising an error leaves (R190). -/
theorem raise_raises (e : ErrCode) (s : State) : Raises e s (raise e s) := by
  constructor <;> rfl

/-- What committing a pixel and moving past the chunk leaves (R126, R127). -/
theorem commit_commits (p : Pixel) (len : Nat) (s : State) :
    Commits p len s (advance len (commit p s)) where
  px := by simp
  cache :=
    { written := by simp
      others := fun i hi => by simp [readCache_writeCache_ne _ p hi] }
  emits := by constructor <;> simp [pixelBytes]
  pos := by simp
  setup := by constructor <;> simp

/-- A committing chunk completes exactly where chunks are enabled. -/
theorem commitChunk_of {s : State} (hf : s.fsm = .decode) (hr : s.run = 0#6) (len : Nat) (p : Pixel) :
    commitChunk len p s = .next (advance len (commit p s)) := whenChunkEnabled_of hf hr _

theorem commitChunk_next {s t : State} {len : Nat} {p : Pixel} (h : commitChunk len p s = .next t) :
    s.fsm = .decode ∧ s.run = 0#6 ∧ t = advance len (commit p s) := by
  obtain ⟨hf, hr, ho⟩ := whenChunkEnabled_next h
  cases ho
  exact ⟨hf, hr, rfl⟩

/-- The fetch step of a run: it raises and changes nothing else, or starts the run (R171, R174). -/
theorem execRun_next {s t : State} {n : BitVec 6} (h : execRun n s = .next t) :
    s.fsm = .decode ∧ s.run = 0#6 ∧
      ((s.cfg.runOvershoot = .fail ∧ s.total - s.count < runLength n ∧ t = raise .pixelCountMismatch s) ∨
        (¬(s.cfg.runOvershoot = .fail ∧ s.total - s.count < runLength n) ∧ t = startRun n s)) := by
  obtain ⟨hf, hr, ho⟩ := whenChunkEnabled_next h
  refine ⟨hf, hr, ?_⟩
  split at ho
  · next hc => cases ho; exact .inl ⟨hc.1, hc.2, rfl⟩
  · next hc => cases ho; exact .inr ⟨hc, rfl⟩

/-- The configuration checks pass exactly on a legal configuration (R103, R104). -/
theorem checkConfig_none_iff (cfg : Config) (w h : BitVec 32) (c : Byte) :
    checkConfig cfg w h c = none ↔
      w ≠ 0#32 ∧ h ≠ 0#32 ∧ w.toNat * h.toNat < 2 ^ cfg.cntW.bits ∧ (c = 3#8 ∨ c = 4#8) := by
  unfold checkConfig
  by_cases h1 : w = 0#32 ∨ h = 0#32 ∨ 2 ^ cfg.cntW.bits ≤ w.toNat * h.toNat
  · rw [if_pos h1]
    refine iff_of_false (by simp) ?_
    rintro ⟨a, b, d, -⟩
    rcases h1 with h1 | h1 | h1
    · exact a h1
    · exact b h1
    · omega
  · rw [if_neg h1]
    obtain ⟨a, h2⟩ := not_or.mp h1
    obtain ⟨b, d⟩ := not_or.mp h2
    by_cases hc : c = 3#8
    · simp [hc, a, b, Nat.lt_of_not_le d]
    · by_cases hc' : c = 4#8 <;> simp [hc, hc', a, b, Nat.lt_of_not_le d]

/-- A failed configuration check is one of two errors (R103, R104). -/
theorem checkConfig_some {cfg : Config} {w h : BitVec 32} {c : Byte} {e : ErrCode}
    (he : checkConfig cfg w h c = some e) : e = .invalidDimensions ∨ e = .invalidChannels := by
  unfold checkConfig at he
  split at he
  · cases he; exact .inl rfl
  · split at he
    · cases he; exact .inr rfl
    · cases he

/-- The header step: it raises and changes nothing else, or loads the configuration (R101, R108). -/
theorem execHeader_next {s t : State} {w h : BitVec 32} {c cs : Byte}
    (hx : execHeader w h c cs s = .next t) :
    s.fsm = .header ∧
      ((∃ e, checkConfig s.cfg w h c = some e ∧ t = raise e s) ∨
        (checkConfig s.cfg w h c = none ∧
          t = enterDecode 14 (loadConfig w h c cs s))) := by
  unfold execHeader at hx
  split at hx
  · next hf =>
    refine ⟨hf, ?_⟩
    cases hc : checkConfig s.cfg w h c with
    | some e => rw [hc] at hx; cases hx; exact .inl ⟨e, rfl, rfl⟩
    | none => rw [hc] at hx; cases hx; exact .inr ⟨rfl, rfl⟩
  · cases hx

/-- The end marker: nothing in DONE, QOI_OP_INDEX(0) where chunks are fetched (R90). -/
theorem execEndMarker_next {s t : State} (h : execEndMarker s = .next t) :
    (s.fsm = .done ∧ t = s) ∨ (s.fsm ≠ .done ∧ recallChunk 0#6 s = .next t) := by
  unfold execEndMarker at h
  split at h
  · next hf => cases h; exact .inl ⟨hf, rfl⟩
  · next hf => exact .inr ⟨hf, h⟩

/-- A width is positive (R8). -/
@[simp] theorem bits_pos (w : BitWidth) : 0 < w.bits := Nat.succ_pos _

/-- The cursor fails to hold an input exactly when it is bounded and N is not < 2^POS_W (R8). -/
theorem cursorHolds_eq_false (cfg : Config) (n : Nat) :
    cursorHolds cfg n = false ↔ ∃ w, cfg.posW = some w ∧ 2 ^ w.bits ≤ n := by
  cases h : cfg.posW <;> simp [cursorHolds, h]

/-- A host's start is refused for one of two reasons (R218, R8). -/
theorem startAllowed_refused {s t : State} {n : Nat} {r : Refusal} (h : startAllowed s n t = .refused r) :
    (r = .startWhileBusy ∧ (s.fsm = .header ∨ s.fsm = .decode)) ∨
      (r = .inputTooLong ∧ cursorHolds s.cfg n = false) := by
  unfold startAllowed at h
  split at h
  · next hb => cases h; exact .inl ⟨rfl, by simpa [busy] using hb⟩
  · split at h
    · cases h
    · next hc => cases h; exact .inr ⟨rfl, by simpa using hc⟩

/-- A host's start answers its state exactly when it is allowed (R212, R8). -/
theorem startAllowed_next {s t u : State} {n : Nat} (h : startAllowed s n t = .next u) :
    busy s = false ∧ cursorHolds s.cfg n = true ∧ u = t := by
  unfold startAllowed at h
  split at h
  · cases h
  · next hb =>
    split at h
    · next hc => cases h; exact ⟨by simpa using hb, hc, rfl⟩
    · cases h

end Sys2Proof.Machine
end

