-- ==== Sys2Proof/Laws/PerInstr.lean ====
section
/-! SUPPORT. Statements for all instructions, one lemma per constructor: the encoding of a unit has as many
bytes as R75 (the chunks), R70 (the header) and R90 (the end marker) give it. -/

namespace Sys2Proof.Laws.EncodedLength

/-- The encoder gives a unit exactly its bytes. -/
def Statement (i : Instr) : Prop := (encode i).length = i.byteLength

theorem rgba (r g b a : Byte) : Statement (.rgba r g b a) := rfl
theorem rgb (r g b : Byte) : Statement (.rgb r g b) := rfl
theorem index (i : BitVec 6) : Statement (.index i) := rfl
theorem diff (sr sg sb : BitVec 2) : Statement (.diff sr sg sb) := rfl
theorem luma (sg : BitVec 6) (srg sbg : BitVec 4) : Statement (.luma sg srg sbg) := rfl
theorem run (n : BitVec 6) : Statement (.run n) := rfl
theorem header (w h : BitVec 32) (c cs : Byte) : Statement (.header w h c cs) := rfl
theorem endMarker : Statement .endMarker := rfl

end Sys2Proof.Laws.EncodedLength
end

