-- ==== Sys2Proof/Laws/Step.lean ====
section
/-! SUPPORT. What a step can do, said once. -/

namespace Sys2Proof.Machine

/-- Every way a step from s answers the next state t. -/
inductive StepCase (s t : State) : Prop where
  /-- the host's move -/
  | host (m : HostMove) (hr : s.request = some m) (ht : hostMove m s = .next t)
  /-- IDLE, DONE, ERROR -/
  | quiet (hr : s.request = none) (hf : s.fsm = .idle ∨ s.fsm = .done ∨ s.fsm = .error) (ht : t = s)
  /-- a header too short or without the magic -/
  | headerError (e : DecodeError) (hr : s.request = none) (hf : s.fsm = .header)
      (he : fetchHeader s = .error e) (ht : t = raise (fetchError e) s)
  /-- the header step -/
  | header (w h : BitVec 32) (c cs : Byte) (hr : s.request = none) (hf : s.fsm = .header)
      (hi : fetchHeader s = .ok (.header w h c cs)) (ht : execHeader w h c cs s = .next t)
  /-- no tag byte, or a chunk cut short -/
  | chunkError (e : DecodeError) (hr : s.request = none) (hf : s.fsm = .decode) (h0 : s.run = 0#6)
      (he : fetchChunk s = .error e) (ht : t = raise (fetchError e) s)
  /-- a chunk -/
  | chunk (i : Instr) (hr : s.request = none) (hf : s.fsm = .decode) (h0 : s.run = 0#6)
      (hi : fetchChunk s = .ok i) (ht : exec i s = .next t)
  /-- run continuation -/
  | runOn (hr : s.request = none) (hf : s.fsm = .decode) (h0 : s.run ≠ 0#6) (ht : t = runContinue s)

theorem step_cases {s t : State} (h : step s = .next t) : StepCase s t := by
  unfold step at h
  cases hr : s.request with
  | some m => rw [hr] at h; exact .host m hr h
  | none =>
    rw [hr] at h
    simp only [blockStep] at h
    cases hf : s.fsm with
    | idle => rw [hf] at h; cases h; exact .quiet hr (.inl hf) rfl
    | done => rw [hf] at h; cases h; exact .quiet hr (.inr (.inl hf)) rfl
    | error => rw [hf] at h; cases h; exact .quiet hr (.inr (.inr hf)) rfl
    | header =>
      rw [hf] at h
      simp only [runFetched] at h
      cases hx : fetchHeader s with
      | error e => rw [hx] at h; cases h; exact .headerError e hr hf hx rfl
      | ok i =>
        rw [hx] at h
        obtain ⟨-, w, ht, c, cs, rfl⟩ := fetchHeader_ok hx
        exact .header w ht c cs hr hf hx h
    | decode =>
      rw [hf] at h
      simp only [decodeStep] at h
      split at h
      · next h0 =>
        simp only [runFetched] at h
        cases hx : fetchChunk s with
        | error e => rw [hx] at h; cases h; exact .chunkError e hr hf h0 hx rfl
        | ok i => rw [hx] at h; exact .chunk i hr hf h0 hx h
      · next h0 => cases h; exact .runOn hr hf h0 rfl

/-- What a chunk of the chunk stream can do: raise for an over-long run, start a run, or commit a
pixel (R126, R171, R174). -/
inductive ChunkCase (i : Instr) (s t : State) : Prop where
  | overshoot (n : BitVec 6) (hi : i = .run n) (hc : s.cfg.runOvershoot = .fail)
      (ho : s.total - s.count < runLength n) (ht : t = raise .pixelCountMismatch s)
  | run (n : BitVec 6) (hi : i = .run n)
      (hc : ¬(s.cfg.runOvershoot = .fail ∧ s.total - s.count < runLength n)) (ht : t = startRun n s)
  | commit (p : Pixel) (hi : ∀ n, i ≠ .run n) (ht : t = advance i.byteLength (commit p s))

theorem exec_chunk_cases {i : Instr} {s t : State} (hp : i.place = .chunkStream)
    (h : exec i s = .next t) : s.fsm = .decode ∧ s.run = 0#6 ∧ ChunkCase i s t := by
  cases i with
  | rgba r g b a =>
    obtain ⟨hf, h0, ht⟩ := commitChunk_next (h : execRgba r g b a s = .next t)
    exact ⟨hf, h0, .commit _ (fun _ e => by cases e) ht⟩
  | rgb r g b =>
    obtain ⟨hf, h0, ht⟩ := commitChunk_next (h : execRgb r g b s = .next t)
    exact ⟨hf, h0, .commit _ (fun _ e => by cases e) ht⟩
  | index i =>
    obtain ⟨hf, h0, ht⟩ := commitChunk_next (h : recallChunk i s = .next t)
    exact ⟨hf, h0, .commit _ (fun _ e => by cases e) ht⟩
  | diff sr sg sb =>
    obtain ⟨hf, h0, ht⟩ := commitChunk_next (h : execDiff sr sg sb s = .next t)
    exact ⟨hf, h0, .commit _ (fun _ e => by cases e) ht⟩
  | luma sg srg sbg =>
    obtain ⟨hf, h0, ht⟩ := commitChunk_next (h : execLuma sg srg sbg s = .next t)
    exact ⟨hf, h0, .commit _ (fun _ e => by cases e) ht⟩
  | run n =>
    obtain ⟨hf, h0, ⟨hc, ho, ht⟩ | ⟨hc, ht⟩⟩ := execRun_next (h : execRun n s = .next t)
    · exact ⟨hf, h0, .overshoot n rfl hc ho ht⟩
    · exact ⟨hf, h0, .run n rfl hc ht⟩
  | header w ht c cs => cases hp
  | endMarker => cases hp

end Sys2Proof.Machine
end

