-- ==== Sys2Proof/Tests/Slice0.lean ====
section
/-! SUPPORT. The model's own tests: words and results from 95_test_vectors.md (the vector is named at each), the
ill-formed terms WellFormed refuses, and a witness of the hypotheses of every statement that has some. -/

namespace Sys2Proof.Tests

open Sys2Proof Sys2Proof.Machine

/-! ### Helpers -/

/-- The state after a core-mode start with the spec's parameters. -/
def coreState (w h : BitVec 32) (c : Byte) (bytes : List Byte) : State :=
  startedCore Config.specValues w h c 0#8 bytes

/-- The state after a file-mode start with the spec's parameters. -/
def fileState (bytes : List Byte) : State := startedFile Config.specValues bytes

/-- Whether an outcome is a next state that passes a check. -/
def nextState (o : StepOutcome) (f : State → Bool) : Bool :=
  match o with
  | .next t => f t
  | .fault _ => false
  | .refused _ => false

/-! ### WellFormed -/

/-- A run's stored field 62 is no run: its tag byte is QOI_OP_RGB's (R81). -/
theorem test_ill_formed_run_62 : Instr.wf (.run 62) = false := by decide
theorem test_ill_formed_run_63 : Instr.wf (.run 63) = false := by decide
theorem test_well_formed_run_61 : Instr.wf (.run 61) = true := by decide

/-! ### Decoding: words written out bit by bit from section 3 of 30_encoding.md -/

theorem test_decode_rgba : decode .chunkStream [0b11111111, 10, 20, 30, 255, 7] =
    some (.rgba 10 20 30 255, [7]) := by decide
theorem test_decode_rgb : decode .chunkStream [0b11111110, 100, 150, 200] =
    some (.rgb 100 150 200, []) := by decide
theorem test_decode_index : decode .chunkStream [0b00_110101] = some (.index 53, []) := by decide
/-- V-D12: 43 = `01 00 00 11`. -/
theorem test_decode_diff : decode .chunkStream [0b01_00_00_11] = some (.diff 0 0 3, []) := by decide
/-- V-D11: 9B B0, the second byte `1011 0000`. -/
theorem test_decode_luma : decode .chunkStream [0b10_011011, 0b1011_0000] =
    some (.luma 27 11 0, []) := by decide
theorem test_decode_run : decode .chunkStream [0b11_111101] = some (.run 61, []) := by decide
/-- V-H15. -/
theorem test_decode_header :
    decode .fileStart [0x71, 0x6F, 0x69, 0x66, 0, 0, 1, 0x2C, 0, 0, 0, 0xC8, 3, 1, 0xFE] =
      some (.header 300 200 3 1, [0xFE]) := by decide
theorem test_decode_end_marker : decode .fileEnd [0, 0, 0, 0, 0, 0, 0, 1] = some (.endMarker, []) := by
  decide
/-- V-H2: "qoix" is no header. -/
theorem test_decode_qoix :
    decode .fileStart [0x71, 0x6F, 0x69, 0x78, 0, 0, 0, 1, 0, 0, 0, 1, 4, 0] = none := by decide
/-- V-C2: QOI_OP_DIFF(1,-2,0) is 72 and QOI_OP_LUMA(-5,3,-8) is 9B B0. -/
theorem test_assemble_diff : assemble (.diff 1 (-2) 0) = some [0x72] := by decide
theorem test_assemble_luma : assemble (.luma (-5) 3 (-8)) = some [0x9B, 0xB0] := by decide

/-! ### The opcode table's numbers, and the step that runs them first after reset -/

theorem test_word_rgba : decodeTableWord 8 0xFF = some (.rgba 0 0 0 0) := by decide
theorem test_word_rgb : decodeTableWord 8 0xFE = some (.rgb 0 0 0) := by decide
theorem test_word_index : decodeTableWord 8 0x09 = some (.index 9) := by decide
theorem test_word_diff : decodeTableWord 8 0x72 = some (.diff 3 0 2) := by decide
theorem test_word_luma : decodeTableWord 8 0x9B = some (.luma 27 0 0) := by decide
theorem test_word_run : decodeTableWord 8 0xC1 = some (.run 1) := by decide
theorem test_word_header : decodeTableWord 32 0x716F6966 = some (.header 0 0 0 0) := by decide
theorem test_word_end_marker : decodeTableWord 64 1 = some .endMarker := by decide

theorem test_first_step_luma : step (State.reset.withFetchWord 8 0x9B) =
    exec (.luma 27 0 0) (State.reset.withFetchWord 8 0x9B) := rfl
theorem test_first_step_run : step (State.reset.withFetchWord 8 0xC1) =
    exec (.run 1) (State.reset.withFetchWord 8 0xC1) := rfl
theorem test_first_step_header : step (State.reset.withFetchWord 32 0x716F6966) =
    exec (.header 0 0 0 0) (State.reset.withFetchWord 32 0x716F6966) := rfl
theorem test_first_step_end_marker : step (State.reset.withFetchWord 64 1) =
    exec .endMarker (State.reset.withFetchWord 64 1) := rfl

/-! ### Single steps -/

/-- V-L1. -/
theorem test_rgba : nextState (step (coreState 2 1 4 [0xFF, 0x0A, 0x14, 0x1E, 0xFF])) (fun t =>
    t.px == ⟨10, 20, 30, 255⟩ && readCache t.cache 9 == ⟨10, 20, 30, 255⟩ &&
    t.out == [0x0A, 0x14, 0x1E, 0xFF] && t.pos == 5 && t.count == 1 && t.fsm == .decode) = true := by
  decide
/-- V-L4: alpha is set although CHANNELS = 3, and OUT gains three bytes. -/
theorem test_rgba_three_channels : nextState (step (coreState 3 1 3 [0xFF, 1, 2, 3, 7])) (fun t =>
    t.px == ⟨1, 2, 3, 7⟩ && readCache t.cache 47 == ⟨1, 2, 3, 7⟩ && t.out == [1, 2, 3]) = true := by
  decide
/-- V-L2. -/
theorem test_rgb : nextState (step (coreState 2 1 3 [0xFE, 0x64, 0x96, 0xC8])) (fun t =>
    t.px == ⟨100, 150, 200, 255⟩ && readCache t.cache 7 == ⟨100, 150, 200, 255⟩ &&
    t.out == [0x64, 0x96, 0xC8] && t.pos == 4) = true := by decide
/-- V-L3: alpha inherited. -/
theorem test_rgb_inherits_alpha : nextState
    (exec (.rgb 9 9 9) { coreState 2 1 4 [] with px := ⟨1, 2, 3, 7⟩, count := 1 }) (fun t =>
    t.px == ⟨9, 9, 9, 7⟩ && readCache t.cache 20 == ⟨9, 9, 9, 7⟩ && t.fsm == .done) = true := by decide
/-- V-I3: an index never written overwrites entry 0, not entry 5. -/
theorem test_index_never_written : nextState
    (exec (.index 5) (remember ⟨64, 0, 0, 0⟩ (coreState 3 1 4 []))) (fun t =>
    t.px == ⟨0, 0, 0, 0⟩ && readCache t.cache 0 == ⟨0, 0, 0, 0⟩ && t.count == 1) = true := by decide
/-- V-I2: entry 53 does not hold the seed at the start. -/
theorem test_index_53_first : nextState (step (coreState 1 1 4 [0x35])) (fun t =>
    t.px == ⟨0, 0, 0, 0⟩ && t.out == [0, 0, 0, 0] && t.pos == 1 && t.fsm == .done) = true := by decide
/-- V-D3 wraps downward; V-D12 has independent channels. -/
theorem test_diff_wraps_down : nextState (step (coreState 4 1 4 [0x40])) (fun t =>
    t.px == ⟨254, 254, 254, 255⟩ && readCache t.cache 23 == ⟨254, 254, 254, 255⟩) = true := by decide
theorem test_diff_channels_independent : diffPixel ⟨2, 0, 1, 255⟩ 0 0 3 = ⟨0, 254, 2, 255⟩ := by decide
/-- V-D6 wraps upward; V-D11. -/
theorem test_luma_wraps_up : lumaPixel ⟨250, 250, 250, 255⟩ 63 15 15 = ⟨32, 25, 32, 255⟩ := by decide
theorem test_luma : nextState
    (exec (.luma 27 11 0) { coreState 4 1 4 [] with px := ⟨11, 18, 30, 255⟩ }) (fun t =>
    t.px == ⟨9, 13, 17, 255⟩ && readCache t.cache 8 == ⟨9, 13, 17, 255⟩ && t.pos == 2) = true := by decide
/-- V-R12: a run of 62 with one pixel owed is clipped in its fetch step. -/
theorem test_run_clipped : nextState (step (coreState 1 1 4 [0xFD])) (fun t =>
    t.run == 0 && t.fsm == .done && t.out == [0, 0, 0, 255] && t.pos == 1 && t.err == .none) = true := by
  decide
/-- V-R7: the same with RUN_OVERSHOOT = fail. -/
theorem test_run_overshoot_fails : nextState
    (exec (.run 61) { coreState 2 2 3 [] with
      cfg := { Config.specValues with runOvershoot := .fail }, count := 1, pos := 4 }) (fun t =>
    t.fsm == .error && t.err == .pixelCountMismatch && t.pos == 4 && t.count == 1) = true := by decide
/-- V-R8 and V-R9: a run at the start writes entry 53 or not. -/
theorem test_run_first_writes : nextState (step (coreState 4 1 4 [0xC2])) (fun t =>
    readCache t.cache 53 == ⟨0, 0, 0, 255⟩ && t.run == 2) = true := by decide
theorem test_run_first_skips : nextState
    (step { coreState 4 1 4 [0xC2] with cfg := { Config.specValues with runCacheWrite := false } })
    (fun t => readCache t.cache 53 == ⟨0, 0, 0, 0⟩ && t.run == 2) = true := by decide
/-- V-R14: a continuation step reads nothing. -/
theorem test_run_continuation : nextState
    (step { coreState 6 1 4 [] with px := ⟨10, 20, 30, 255⟩, run := 1, count := 5 }) (fun t =>
    t.out == [0x0A, 0x14, 0x1E, 0xFF] && t.count == 6 && t.fsm == .done && t.run == 0 && t.pos == 0) =
      true := by decide
/-- V-H13: colourspace 2 is accepted and flagged. -/
theorem test_header_colorspace_2 : nextState
    (step (fileState [0x71, 0x6F, 0x69, 0x66, 0, 0, 0, 1, 0, 0, 0, 1, 3, 2, 0])) (fun t =>
    t.fsm == .decode && t.width == 1 && t.height == 1 && t.total == 1 && t.channels == 3 &&
    t.colorspace == 2 && t.csNonstd && t.pos == 14) = true := by decide
/-- V-H16: 65536 x 65536 with CNT_W = 32. -/
theorem test_header_overflow : nextState
    (step (startedFile { Config.specValues with cntW := ⟨31⟩ }
      [0x71, 0x6F, 0x69, 0x66, 0, 1, 0, 0, 0, 1, 0, 0, 4, 0])) (fun t =>
    t.fsm == .error && t.err == .invalidDimensions && t.width == 0 && t.pos == 0) = true := by decide
/-- V-H10 and V-H9: short input, and a bad magic before the other defects. -/
theorem test_header_short : nextState (step (fileState [0x71, 0x6F, 0x69, 0x66, 0, 0])) (fun t =>
    t.fsm == .error && t.err == .truncated) = true := by decide
theorem test_header_bad_magic_first : nextState
    (step (fileState [0x71, 0x6F, 0x69, 0x78, 0, 0, 0, 0, 0, 0, 0, 0, 9, 0])) (fun t =>
    t.fsm == .error && t.err == .badMagic) = true := by decide
/-- R90: the marker before the budget is full is QOI_OP_INDEX(0); in DONE it is nothing. -/
theorem test_end_marker_as_index : nextState
    (exec .endMarker { coreState 10 1 4 [] with count := 1, pos := 5 }) (fun t =>
    t.px == ⟨0, 0, 0, 0⟩ && t.pos == 6 && t.count == 2) = true := by decide
theorem test_end_marker_in_done : exec .endMarker { coreState 1 1 4 [] with fsm := .done } =
    .next { coreState 1 1 4 [] with fsm := .done } := rfl
/-- V-E2: a chunk cut short has no effect. -/
theorem test_truncated : nextState (step (coreState 1 1 3 [0xFE, 1, 2])) (fun t =>
    t.fsm == .error && t.err == .truncated && t.pos == 0 && t.px == ⟨0, 0, 0, 255⟩ && t.out == []) =
      true := by decide
/-- V-E10: an empty input. -/
theorem test_no_tag : nextState (step (coreState 1 1 4 [])) (fun t =>
    t.fsm == .error && t.err == .pixelCountMismatch && t.count == 0) = true := by decide
/-- V-S5 and V-S8: core-mode starts. -/
theorem test_core_start_invalid : nextState
    (step { State.reset with request := some (.startCore 0 2 4 0 []) }) (fun t =>
    t.fsm == .error && t.err == .invalidDimensions && t.height == 0) = true := by decide
theorem test_core_start : nextState
    (step { State.reset with request := some (.startCore 1 1 3 7 [0]) }) (fun t =>
    t.fsm == .decode && t.colorspace == 7 && t.csNonstd && t.request == none) = true := by decide
/-! ### Witnesses: the hypotheses of each statement, met together by concrete data -/

/-- A decode loop with a literal, a run and an index ahead of it: 2 x 1 RGBA. -/
def loop : State := coreState 2 1 4 [0xFF, 10, 20, 30, 255, 0xC1, 0x35]

/-- A decode loop with a run of 62 ahead of it and 2 pixels owed. -/
def runAhead : State := coreState 2 1 4 [0xFD]

/-- The same loop inside a run: one pixel emitted, one repetition owed. -/
def inRun : State :=
  { loop with
    px := seedPixel, cache := writeCache loop.cache 53 seedPixel, count := 1, run := 1,
    out := [0, 0, 0, 255], pos := 1 }

/-- A decode that is finished: 1 x 1 RGB, the pixel (0, 0, 0). -/
def finished : State :=
  { coreState 1 1 3 [0x00] with
    px := zeroPixel, count := 1, out := [0, 0, 0], pos := 1, fsm := .done }

/-- A header with channels 5. -/
def badHeader : State := fileState [0x71, 0x6F, 0x69, 0x66, 0, 0, 0, 1, 0, 0, 0, 1, 5, 0]

/-- The state after it was refused. -/
def refusedHeader : State := { badHeader with fsm := .error, err := .invalidChannels }

/-- A state that is not in the wait for a header satisfies the wait invariant. -/
theorem wait_of {s : State} (h : s.fsm ≠ .idle ∧ s.fsm ≠ .header) : WaitInv s :=
  fun hf => (hf.elim h.1 h.2).elim

theorem loop_inv : StateInv loop where
  input := by decide
  cache := by unfold CacheInv; decide
  px := by unfold PxCached; decide
  pxWrite := by unfold PxCached; decide
  pos := by decide
  fits := by decide
  total := by decide
  csNonstd := by decide
  legal := by decide
  count := by decide
  owed := by decide
  full := by decide
  out := by decide
  runMax := by decide
  run := by decide
  err := by decide
  wait := wait_of (by decide)

theorem runAhead_inv : StateInv runAhead where
  input := by decide
  cache := by unfold CacheInv; decide
  px := by unfold PxCached; decide
  pxWrite := by unfold PxCached; decide
  pos := by decide
  fits := by decide
  total := by decide
  csNonstd := by decide
  legal := by decide
  count := by decide
  owed := by decide
  full := by decide
  out := by decide
  runMax := by decide
  run := by decide
  err := by decide
  wait := wait_of (by decide)

theorem finished_inv : StateInv finished where
  input := by decide
  cache := by unfold CacheInv; decide
  px := by unfold PxCached; decide
  pxWrite := by unfold PxCached; decide
  pos := by decide
  fits := by decide
  total := by decide
  csNonstd := by decide
  legal := by decide
  count := by decide
  owed := by decide
  full := by decide
  out := by decide
  runMax := by decide
  run := by decide
  err := by decide
  wait := wait_of (by decide)

theorem badHeader_inv : StateInv badHeader where
  input := by decide
  cache := by unfold CacheInv; decide
  px := by unfold PxCached; decide
  pxWrite := by unfold PxCached; decide
  pos := by decide
  fits := by decide
  total := by decide
  csNonstd := by decide
  legal := by decide
  count := by decide
  owed := by decide
  full := by decide
  out := by decide
  runMax := by decide
  run := by decide
  err := by decide
  wait := fun _ => ⟨⟨rfl, by decide, rfl, rfl, rfl, rfl⟩, ⟨rfl, rfl, rfl, rfl, rfl, rfl⟩⟩

theorem refusedHeader_inv : StateInv refusedHeader where
  input := by decide
  cache := by unfold CacheInv; decide
  px := by unfold PxCached; decide
  pxWrite := by unfold PxCached; decide
  pos := by decide
  fits := by decide
  total := by decide
  csNonstd := by decide
  legal := by decide
  count := by decide
  owed := by decide
  full := by decide
  out := by decide
  runMax := by decide
  run := by decide
  err := by decide
  wait := wait_of (by decide)

theorem witness_DecodeOfEncode : Instr.wf (.run 61) = true ∧ Instr.wf (.header 1 1 4 0) = true := by decide
theorem witness_EncodeOfDecode :
    decode .chunkStream [0xFD, 1] = some (.run 61, [1]) ∧
    decode .fileStart ([0x71, 0x6F, 0x69, 0x66] ++ [0, 0, 0, 1, 0, 0, 0, 1, 4, 0]) = some (.header 1 1 4 0, []) ∧
    decode .fileEnd [0, 0, 0, 0, 0, 0, 0, 1, 9] = some (.endMarker, [9]) := by decide
/-- One byte at an end of the range of each kind; 0xFD is the last run. -/
theorem witness_TagByteClassification :
    (0x3F#8).extractLsb' 6 2 = 0b00#2 ∧ (0x40#8).extractLsb' 6 2 = 0b01#2 ∧
    (0xBF#8).extractLsb' 6 2 = 0b10#2 ∧ (0xFD#8).extractLsb' 6 2 = 0b11#2 ∧ (0xFD#8).toNat ≤ 0xFD := by
  decide
theorem witness_EveryTagByteIsAChunk :
    decodeChunk [0xFF, 1, 2, 3, 4, 5] = .ok (.rgba 1 2 3 4, [5]) := rfl
theorem witness_WrittenFormAssembles : Instr.wf (.run 61) = true := by decide

/-- The last payload byte missing. -/
theorem witness_RgbaCommitsItsPayload :
    loop.fsm = .decode ∧ loop.run = 0#6 ∧
    (coreState 1 1 4 [0xFF, 1, 2, 3]).request = none ∧ (coreState 1 1 4 [0xFF, 1, 2, 3]).fsm = .decode ∧
    (coreState 1 1 4 [0xFF, 1, 2, 3]).run = 0#6 ∧ (coreState 1 1 4 [0xFF, 1, 2, 3]).pos = 0 ∧
    (coreState 1 1 4 [0xFF, 1, 2, 3]).input.read 0 = some 0xFF#8 ∧
    (coreState 1 1 4 [0xFF, 1, 2, 3]).input.size < 0 + 5 := by decide
theorem witness_RgbKeepsAlpha :
    loop.fsm = .decode ∧ loop.run = 0#6 ∧
    (coreState 1 1 3 [0xFE, 1, 2]).request = none ∧ (coreState 1 1 3 [0xFE, 1, 2]).fsm = .decode ∧
    (coreState 1 1 3 [0xFE, 1, 2]).run = 0#6 ∧ (coreState 1 1 3 [0xFE, 1, 2]).pos = 0 ∧
    (coreState 1 1 3 [0xFE, 1, 2]).input.read 0 = some 0xFE#8 ∧
    (coreState 1 1 3 [0xFE, 1, 2]).input.size < 0 + 4 := by decide
theorem witness_IndexCommitsItsEntry : loop.fsm = .decode ∧ loop.run = 0#6 := by decide
/-- Entry 0 stands at its hash; entry 63 was never written. -/
theorem witness_IndexWritesTheHashEntry :
    CacheInv loop ∧ (∃ t, exec (.index 0) loop = .next t) ∧ (∃ t, exec (.index 63) loop = .next t) ∧
    pixelHash (readCache loop.cache 0) = 0 ∧ pixelHash (readCache loop.cache 63) ≠ 63 :=
  ⟨loop_inv.cache, ⟨_, rfl⟩, ⟨_, rfl⟩, by decide, by decide⟩
theorem witness_DiffAddsSmallDeltas : loop.fsm = .decode ∧ loop.run = 0#6 := by decide
theorem witness_LumaAddsGreenRelativeDeltas : loop.fsm = .decode ∧ loop.run = 0#6 := by decide

/-- A run of 2 fits a budget of 2 exactly; a run of 3 passes it by one, under `fail`. -/
theorem witness_RunChunkEmitsOrRaises :
    loop.fsm = .decode ∧ loop.run = 0#6 ∧ loop.cfg.runOvershoot = .clip ∧
    (1#6).toNat + 1 ≤ loop.total - loop.count ∧
    ({ loop with cfg := { loop.cfg with runOvershoot := .fail } } : State).cfg.runOvershoot = .fail ∧
    loop.total - loop.count < (2#6).toNat + 1 ∧ (61#6).toNat ≤ 61 := by decide
theorem witness_RunContinuationEmitsPx :
    inRun.request = none ∧ inRun.fsm = .decode ∧ inRun.run ≠ 0#6 := by decide
theorem witness_WholeRunInOneStep :
    StateInv runAhead ∧ runAhead.request = none ∧ runAhead.fsm = .decode ∧ runAhead.run = 0#6 ∧
    runAhead.cfg.runOvershoot = .clip ∧ fetchChunk runAhead = .ok (.run 61) :=
  ⟨runAhead_inv, rfl, rfl, rfl, rfl, rfl⟩
/-- The first clause in a loop whose cache holds PX, the second at the start of a stream. -/
theorem witness_RunCacheWriteIsANoOpUnlessFirst :
    (PxCached (remember loop.px loop) ∧ ∃ t, exec (.run 0) (remember loop.px loop) = .next t) ∧
    (loop.px = ⟨0, 0, 0, 255⟩ ∧ (∀ i : BitVec 6, readCache loop.cache i = ⟨0, 0, 0, 0⟩) ∧
      loop.cfg.runOvershoot = .clip ∧ ∃ t, exec (.run 0) loop = .next t) :=
  ⟨⟨by unfold PxCached; decide, _, rfl⟩, by decide, by decide, by decide, _, rfl⟩

/-- The three outcomes: channels 5; width 0; and a legal header. -/
theorem witness_HeaderStepOnBytes :
    badHeader.request = none ∧ badHeader.fsm = .header ∧
    (∀ k, k < 14 → badHeader.input.read k =
      [0x71#8, 0x6F#8, 0x69#8, 0x66#8, 0, 0, 0, 1, 0, 0, 0, 1, 5, 0][k]?) ∧
    (∀ k, k < 14 → (fileState [0x71, 0x6F, 0x69, 0x66, 0, 0, 0, 0, 0, 0, 0, 1, 4, 0]).input.read k =
      [0x71#8, 0x6F#8, 0x69#8, 0x66#8, 0, 0, 0, 0, 0, 0, 0, 1, 4, 0][k]?) ∧
    (∀ k, k < 14 → (fileState [0x71, 0x6F, 0x69, 0x66, 0, 0, 0, 1, 0, 0, 0, 1, 4, 0]).input.read k =
      [0x71#8, 0x6F#8, 0x69#8, 0x66#8, 0, 0, 0, 1, 0, 0, 0, 1, 4, 0][k]?) ∧
    1 * 1 < 2 ^ badHeader.cfg.cntW.bits := by decide
/-- 13 bytes; and 14 bytes that begin "qoix". -/
theorem witness_HeaderFetchChecks :
    (fileState (List.replicate 13 0x71#8)).request = none ∧
    (fileState (List.replicate 13 0x71#8)).fsm = .header ∧
    (fileState (List.replicate 13 0x71#8)).input.size < 14 ∧
    14 ≤ (fileState [0x71, 0x6F, 0x69, 0x78, 0, 0, 0, 1, 0, 0, 0, 1, 4, 0]).input.size ∧
    (fileState [0x71, 0x6F, 0x69, 0x78, 0, 0, 0, 1, 0, 0, 0, 1, 4, 0]).input.window 0 4 ≠
      [0x71#8, 0x6F#8, 0x69#8, 0x66#8] := by decide
/-- Channels 3, 4 and, on either side of them, 2 and 5. -/
theorem witness_HeaderChannelCheck :
    badHeader.fsm = .header ∧ (1#32 : BitVec 32) ≠ 0#32 ∧
    (1#32).toNat * (1#32).toNat < 2 ^ badHeader.cfg.cntW.bits ∧
    ((3#8).toNat = 3 ∨ (3#8).toNat = 4) ∧ ((4#8).toNat = 3 ∨ (4#8).toNat = 4) ∧
    ¬((2#8).toNat = 3 ∨ (2#8).toNat = 4) ∧ ¬((5#8).toNat = 3 ∨ (5#8).toNat = 4) := by decide
theorem witness_HeaderCompletes :
    badHeader.fsm = .header ∧ (1#32 : BitVec 32) ≠ 0#32 ∧
    (1#32).toNat * (1#32).toNat < 2 ^ badHeader.cfg.cntW.bits ∧ (4#8 = 3#8 ∨ 4#8 = 4#8) := by decide
theorem witness_HeaderErrorReportsNothing :
    StateInv badHeader ∧ badHeader.request = none ∧ badHeader.fsm = .header ∧
    step badHeader = .next refusedHeader ∧ refusedHeader.fsm = .error :=
  ⟨badHeader_inv, rfl, rfl, rfl, rfl⟩
theorem witness_SixtyFourBitCountNeverOverflows : Config.specValues.cntW.bits = 64 := by decide

theorem witness_EndMarkerIsNeverConsumed :
    finished.fsm = .done ∧ loop.fsm = .decode ∧ loop.run = 0#6 := by decide

theorem witness_FrameOfCommittingChunks :
    Instr.place (.luma 0 15 0) = .chunkStream ∧ (∀ n, Instr.luma 0 15 0 ≠ .run n) ∧
    ∃ t, exec (.luma 0 15 0) loop = .next t := ⟨rfl, by simp, _, rfl⟩
/-- A run that starts, one that starts without the cache write, and one that raises. -/
theorem witness_FrameOfRunChunk :
    (∃ t, exec (.run 61) loop = .next t) ∧
    (∃ t, exec (.run 1) { loop with cfg := { loop.cfg with runCacheWrite := false } } = .next t) ∧
    ∃ t, exec (.run 2) { loop with cfg := { loop.cfg with runOvershoot := .fail } } = .next t :=
  ⟨⟨_, rfl⟩, ⟨_, rfl⟩, _, rfl⟩
/-- A header that loads and one that raises. -/
theorem witness_FrameOfHeader :
    (∃ t, exec (.header 1 1 4 0) badHeader = .next t) ∧ ∃ t, exec (.header 0 1 4 0) badHeader = .next t :=
  ⟨⟨_, rfl⟩, _, rfl⟩
theorem witness_FrameOfEndMarker :
    (∃ t, exec .endMarker finished = .next t) ∧ ∃ t, exec .endMarker loop = .next t := ⟨⟨_, rfl⟩, _, rfl⟩

theorem witness_StepRunsTheDecodedUnit :
    loop.request = none ∧ loop.fsm = .decode ∧ loop.run = 0#6 ∧
    decodeChunk (loop.input.window loop.pos 5) = .ok (.rgba 10 20 30 255, []) ∧
    badHeader.request = none ∧ badHeader.fsm = .header ∧
    decodeHeader (badHeader.input.window 0 14) = .ok (.header 1 1 5 0, []) :=
  ⟨rfl, rfl, rfl, rfl, rfl, rfl, rfl⟩
/-- POS = N; a QOI_OP_LUMA tag as the last byte; a whole chunk that ends at N; a run in progress. -/
theorem witness_FetchChecks :
    (coreState 1 1 4 []).input.size ≤ (coreState 1 1 4 []).pos ∧
    (coreState 1 1 4 [0xA0]).input.read 0 = some 0xA0#8 ∧
    (coreState 1 1 4 [0xA0]).input.size < 0 + chunkLength (classify 0xA0#8) ∧
    (coreState 1 1 4 [0xA0, 0x88]).input.read 0 = some 0xA0#8 ∧
    0 + chunkLength (classify 0xA0#8) ≤ (coreState 1 1 4 [0xA0, 0x88]).input.size ∧
    (coreState 1 1 4 [0xA0]).fsm = .decode ∧ (coreState 1 1 4 [0xA0]).run = 0#6 ∧
    inRun.fsm = .decode ∧ inRun.run ≠ 0#6 := by decide
theorem witness_QuiescentStatesKeepEverything :
    State.reset.request = none ∧ State.reset.fsm = .idle ∧ finished.fsm = .done ∧ refusedHeader.fsm = .error := by
  decide
/-- A cursor of 1 bit, the narrowest there is. -/
def oneBitCursor : State := { State.reset with cfg := { Config.specValues with posW := some ⟨0⟩ } }

/-- Both refusals happen: a start in DECODE, and an input of 2 bytes for a cursor of 1 bit, in both
modes; 1 byte is not refused. -/
theorem witness_StepRefusesOnlyBadStarts :
    step { loop with request := some (.startFile []) } = .refused .startWhileBusy ∧
    step { oneBitCursor with request := some (.startFile [0, 0]) } = .refused .inputTooLong ∧
    step { oneBitCursor with request := some (.startCore 1 1 4 0 [0, 0]) } = .refused .inputTooLong ∧
    cursorHolds oneBitCursor.cfg 2 = false ∧ cursorHolds oneBitCursor.cfg 1 = true :=
  ⟨rfl, rfl, rfl, rfl, rfl⟩
theorem witness_DecodeStepMakesProgress : loop.request = none ∧ loop.fsm = .decode := by decide
theorem witness_DecodeTerminates : StateInv loop ∧ loop.request = none ∧ loop.fsm = .decode :=
  ⟨loop_inv, rfl, rfl⟩
/-- The same first chunk, with nothing after it. -/
theorem witness_UnreadBytesDoNotMatter :
    ∃ t, loop.request = none ∧ loop.fsm = .decode ∧ step loop = .next t ∧ t.fsm ≠ .error ∧
      ∀ k, loop.pos ≤ k → k < t.pos →
        (Memory.ofBytes [0xFF, 10, 20, 30, 255]).read k = loop.input.read k := by
  refine ⟨_, rfl, rfl, rfl, by decide, fun k _ hk => ?_⟩
  have hk5 : k < 5 := hk
  revert k
  decide
theorem witness_OutputIsAppendOnly : loop.request = none ∧ ∃ t, step loop = .next t := ⟨rfl, _, rfl⟩
theorem witness_CursorMovesForward :
    (StateInv loop ∧ loop.request = none ∧ ∃ t, step loop = .next t) ∧
    (StateInv badHeader ∧ badHeader.request = none ∧ ∃ t, step badHeader = .next t) :=
  ⟨⟨loop_inv, rfl, _, rfl⟩, badHeader_inv, rfl, _, rfl⟩
theorem witness_InputAndParametersAreFixed :
    (∃ t, step { finished with request := some .hardwareReset } = .next t) ∧
    loop.request = none ∧ ∃ t, step loop = .next t := ⟨⟨_, rfl⟩, rfl, _, rfl⟩
theorem witness_PxStaysInTheCache :
    (Instr.place (.diff 0 1 2) = .chunkStream ∧ (∀ n, Instr.diff 0 1 2 ≠ .run n) ∧
      ∃ t, exec (.diff 0 1 2) loop = .next t) ∧
    inRun.request = none ∧ PxCached inRun ∧ ∃ t, step inRun = .next t :=
  ⟨⟨rfl, by simp, _, rfl⟩, rfl, by unfold PxCached; decide, _, rfl⟩
theorem witness_PixelLandsAtItsOffset :
    ∃ t, StateInv loop ∧ loop.request = none ∧ loop.fsm = .decode ∧ step loop = .next t ∧ t.fsm ≠ .error :=
  ⟨_, loop_inv, rfl, rfl, rfl, by decide⟩

/-- A start in each of the three states that allow one. -/
theorem witness_FileStartInitialises :
    ({ State.reset with request := some (.startFile [1]) } : State).fsm = .idle ∧
    ({ finished with request := some (.startFile [1]) } : State).fsm = .done ∧
    ({ refusedHeader with request := some (.startFile [1]) } : State).fsm = .error ∧
    cursorHolds State.reset.cfg 1 = true ∧ cursorHolds finished.cfg 1 = true ∧
    cursorHolds refusedHeader.cfg 1 = true := by decide
theorem witness_CoreStartConfigures :
    ({ State.reset with request := some (.startCore 1 1 4 0 []) } : State).request =
      some (.startCore 1 1 4 0 []) ∧
    State.reset.fsm = .idle ∧ cursorHolds State.reset.cfg 0 = true ∧
    (0#32 = 0#32 ∨ 1#32 = 0#32 ∨ 2 ^ State.reset.cfg.cntW.bits ≤ (0#32).toNat * (1#32).toNat) ∧
    ¬(1#32 = 0#32 ∨ 1#32 = 0#32 ∨ 2 ^ State.reset.cfg.cntW.bits ≤ (1#32).toNat * (1#32).toNat) ∧
    ¬(5#8 = 3#8 ∨ 5#8 = 4#8) := by decide
theorem witness_HardwareResetFromAnyState :
    ({ inRun with request := some .hardwareReset } : State).request = some .hardwareReset := by decide
theorem witness_StartWhileBusyIsRefused :
    ({ loop with request := some (.startFile []) } : State).request = some (.startFile []) ∧
    HostMove.startFile [] ≠ .hardwareReset ∧ loop.fsm = .decode ∧ badHeader.fsm = .header := by decide
theorem witness_StartForgetsThePast :
    ({ finished with request := some (.startFile []) } : State).request = some (.startFile []) ∧
    ({ State.reset with request := some (.startFile []) } : State).request = some (.startFile []) ∧
    HostMove.startFile [] ≠ .hardwareReset ∧ finished.cfg = State.reset.cfg ∧
    (finished.fsm ≠ .header ∧ finished.fsm ≠ .decode) ∧ (State.reset.fsm ≠ .header ∧ State.reset.fsm ≠ .decode) := by
  decide
theorem witness_ResultOfADecode :
    (StateInv finished ∧ finished.fsm = .done) ∧ StateInv refusedHeader ∧ refusedHeader.fsm = .error :=
  ⟨⟨finished_inv, rfl⟩, refusedHeader_inv, rfl⟩
/-- A bounded cursor. -/
theorem witness_OnePixelDimensionsPassTheCheck : oneBitCursor.cfg.posW = some ⟨0⟩ := rfl
theorem witness_InvKeptByStep : StateInv loop ∧ ∃ t, step loop = .next t := ⟨loop_inv, _, rfl⟩

end Sys2Proof.Tests
end

section
/-!
PROOFS of the family 30_encoding.md: the classification of the first byte (R74), one clause per kind.
-/
namespace Sys2Proof

/-! ### Which bytes miss the two exact matches -/

/-- Both exact matches have the top bits 11, so the other three top-bit classes never meet them. -/
theorem ne_exactMatch_of_topBits {b0 : Byte} (h : b0.extractLsb' 6 2 ≠ 0b11#2) :
    b0 ≠ 0xFF#8 ∧ b0 ≠ 0xFE#8 := by
  constructor
  · rintro rfl; exact h rfl
  · rintro rfl; exact h rfl

theorem ne_exactMatch_of_toNat_le {b0 : Byte} (h : b0.toNat ≤ 0xFD) : b0 ≠ 0xFF#8 ∧ b0 ≠ 0xFE#8 := by
  constructor
  · rintro rfl; simp at h
  · rintro rfl; simp at h

/-! ### The clauses of the classification -/

@[simp] theorem classify_0xFF : classify 0xFF#8 = .rgba := rfl

@[simp] theorem classify_0xFE : classify 0xFE#8 = .rgb := rfl

theorem classify_of_topBits_00 {b0 : Byte} (h : b0.extractLsb' 6 2 = 0b00#2) : classify b0 = .index := by
  obtain ⟨hFF, hFE⟩ := ne_exactMatch_of_topBits (b0 := b0) (by simp [h])
  simp [classify, hFF, hFE, h]

theorem classify_of_topBits_01 {b0 : Byte} (h : b0.extractLsb' 6 2 = 0b01#2) : classify b0 = .diff := by
  obtain ⟨hFF, hFE⟩ := ne_exactMatch_of_topBits (b0 := b0) (by simp [h])
  simp [classify, hFF, hFE, h]

theorem classify_of_topBits_10 {b0 : Byte} (h : b0.extractLsb' 6 2 = 0b10#2) : classify b0 = .luma := by
  obtain ⟨hFF, hFE⟩ := ne_exactMatch_of_topBits (b0 := b0) (by simp [h])
  simp [classify, hFF, hFE, h]

theorem classify_of_topBits_11 {b0 : Byte} (h : b0.extractLsb' 6 2 = 0b11#2) (hle : b0.toNat ≤ 0xFD) :
    classify b0 = .run := by
  obtain ⟨hFF, hFE⟩ := ne_exactMatch_of_toNat_le hle
  simp [classify, hFF, hFE, h]

/-- The payload lengths of R75. -/
theorem chunkLength_sub_one_mem (k : ChunkKind) : chunkLength k - 1 ∈ [0, 1, 3, 4] := by
  cases k <;> decide

/-- Settles O3: each clause is the classification's own branch, once the exact matches are shut out. -/
theorem tagByteClassification : Obligations.TagByteClassification := by
  intro b0
  refine ⟨?rgba, ?rgb, classify_of_topBits_00, classify_of_topBits_01, classify_of_topBits_10,
    classify_of_topBits_11, chunkLength_sub_one_mem _⟩
  case rgba => rintro rfl; exact classify_0xFF
  case rgb => rintro rfl; exact classify_0xFE

end Sys2Proof
end

section
/-!
PROOFS of the family 40_header.md: the channel check of the header step (R104).
-/
namespace Sys2Proof
open Sys2Proof.Machine

/-! ### The header step, by the outcome of the configuration check -/

theorem exec_header_of_checkConfig_none {s : State} {w h : BitVec 32} {c : Byte} (cs : Byte)
    (hf : s.fsm = .header) (hc : checkConfig s.cfg w h c = none) :
    exec (.header w h c cs) s = .next (enterDecode 14 (loadConfig w h c cs s)) := by
  simp [exec, execHeader, hf, hc]

theorem exec_header_of_checkConfig_some {s : State} {w h : BitVec 32} {c : Byte} {e : ErrCode} (cs : Byte)
    (hf : s.fsm = .header) (hc : checkConfig s.cfg w h c = some e) :
    exec (.header w h c cs) s = .next (raise e s) := by
  simp [exec, execHeader, hf, hc]

/-- The dimension check (R103) comes before the channel check, so legal dimensions leave the channel byte
to decide. -/
theorem checkConfig_of_illegal_channels {cfg : Config} {w h : BitVec 32} {c : Byte} (hw : w ≠ 0#32)
    (hh : h ≠ 0#32) (hwh : w.toNat * h.toNat < 2 ^ cfg.cntW.bits) (hc : ¬(c = 3#8 ∨ c = 4#8)) :
    checkConfig cfg w h c = some .invalidChannels := by
  have hdim : ¬(w = 0#32 ∨ h = 0#32 ∨ 2 ^ cfg.cntW.bits ≤ w.toNat * h.toNat) := by
    simp [hw, hh, hwh]
  rw [checkConfig, if_neg hdim, if_pos (not_or.mp hc)]

/-- The legal channel bytes (R104), as numbers and as bytes. -/
theorem toNat_eq_three_or_four_iff (c : Byte) : (c.toNat = 3 ∨ c.toNat = 4) ↔ (c = 3#8 ∨ c = 4#8) := by
  simp [← BitVec.toNat_inj]

/-- Settles O22: with legal dimensions the configuration check passes exactly on channel bytes 3 and 4,
and its only other answer is InvalidChannels. -/
theorem headerChannelCheck : Obligations.HeaderChannelCheck := by
  intro s w h c cs hf hw hh hwh
  rw [toNat_eq_three_or_four_iff]
  constructor
  · intro hc
    have hpass : checkConfig s.cfg w h c = none :=
      (checkConfig_none_iff s.cfg w h c).mpr ⟨hw, hh, hwh, hc⟩
    exact ⟨_, exec_header_of_checkConfig_none cs hf hpass, enterDecode_fsm _ _⟩
  · intro hc
    have hfail : checkConfig s.cfg w h c = some .invalidChannels :=
      checkConfig_of_illegal_channels hw hh hwh hc
    exact ⟨_, exec_header_of_checkConfig_some cs hf hfail, raise_raises _ _⟩

end Sys2Proof
end

section
/-!
PROOFS of the family 41_decode_loop.md: the two fetch checks of the decode step (R124), by the window onto IN
at POS.
-/
namespace Sys2Proof
open Sys2Proof.Machine

/-! ### The window at an offset: its first byte, and none at the end of IN -/

theorem Machine.Memory.lt_size_of_read {m : Memory} {k : Nat} {b : Byte} (h : m.read k = some b) :
    k < m.size := by
  by_contra hk
  simp [Memory.read_eq_none (Nat.not_lt.mp hk)] at h

theorem Machine.Memory.window_of_read {m : Memory} {a : Nat} {b : Byte} (n : Nat) (h : m.read a = some b) :
    m.window a (n + 1) = b :: m.window (a + 1) n := by
  simp [Memory.window, h]

theorem Machine.Memory.window_eq_nil {m : Memory} {a : Nat} (n : Nat) (h : m.size ≤ a) :
    m.window a n = [] :=
  List.eq_nil_of_length_eq_zero (by rw [Memory.window_length]; omega)

/-! ### What the fetch answers (R124) -/

/-- Only the three kinds with payload bytes can be cut short (R75). -/
theorem mem_of_one_lt_chunkLength {k : ChunkKind} (h : 1 < chunkLength k) :
    k ∈ [ChunkKind.rgba, .rgb, .luma] := by
  cases k with
  | rgba | rgb | luma => decide
  | index | diff | run => exact absurd h (by decide)

theorem fetchChunk_of_size_le_pos {s : State} (h : s.input.size ≤ s.pos) :
    fetchChunk s = .error .noTag := by
  rw [fetchChunk, Memory.window_eq_nil 5 h, decodeChunk_nil]
  rfl

theorem fetchChunk_of_short {s : State} {b0 : Byte} (hb : s.input.read s.pos = some b0)
    (h : s.input.size < s.pos + chunkLength (classify b0)) : fetchChunk s = .error .shortChunk := by
  have hpos := Memory.lt_size_of_read hb
  have hshort : (s.input.window (s.pos + 1) 4).length + 1 < chunkLength (classify b0) := by
    rw [Memory.window_length]; omega
  rw [fetchChunk, Memory.window_of_read 4 hb, decodeChunk_short b0 _ hshort]
  rfl

/-- Five bytes hold any chunk, so the window at POS decodes as soon as IN holds the tag's length. -/
theorem decodeChunk_window_of_fits {s : State} {b0 : Byte} (hb : s.input.read s.pos = some b0)
    (h : s.pos + chunkLength (classify b0) ≤ s.input.size) :
    ∃ i rest, decodeChunk (s.input.window s.pos 5) = .ok (i, rest) ∧
      i.byteLength = chunkLength (classify b0) ∧ i.place = .chunkStream := by
  have hmax := (chunkLength_le (classify b0)).2
  have hlong : chunkLength (classify b0) ≤ (s.input.window (s.pos + 1) 4).length + 1 := by
    rw [Memory.window_length]; omega
  obtain ⟨i, hi, -, hplace, hlen⟩ := decodeChunk_long b0 _ hlong
  rw [Memory.window_of_read 4 hb]
  exact ⟨i, _, hi, hlen, hplace⟩

/-! ### The decode step without a host move (R123) -/

theorem step_eq_decodeStep {s : State} (hr : s.request = none) (hf : s.fsm = .decode) :
    step s = decodeStep s := by
  simp [step, blockStep, hr, hf]

theorem step_eq_runFetched {s : State} (hr : s.request = none) (hf : s.fsm = .decode) (h0 : s.run = 0#6) :
    step s = runFetched (fetchChunk s) s := by
  rw [step_eq_decodeStep hr hf, decodeStep, if_pos h0]

theorem step_eq_runContinue {s : State} (hr : s.request = none) (hf : s.fsm = .decode) (h0 : s.run ≠ 0#6) :
    step s = .next (runContinue s) := by
  rw [step_eq_decodeStep hr hf, decodeStep, if_neg h0]

theorem step_of_fetchChunk_error {s : State} {e : DecodeError} (hr : s.request = none)
    (hf : s.fsm = .decode) (h0 : s.run = 0#6) (he : fetchChunk s = .error e) :
    step s = .next (raise (fetchError e) s) := by
  rw [step_eq_runFetched hr hf h0, he]
  rfl

theorem step_of_decodeChunk_ok {s : State} {i : Instr} {rest : List Byte} (hr : s.request = none)
    (hf : s.fsm = .decode) (h0 : s.run = 0#6)
    (hi : decodeChunk (s.input.window s.pos 5) = .ok (i, rest)) : step s = exec i s := by
  rw [step_eq_runFetched hr hf h0, fetchChunk, hi]
  rfl

/-- Settles O32: the window at POS is empty, too short for its tag, or long enough; a continuation reads
no window. -/
theorem fetchChecks : Obligations.FetchChecks := by
  intro s hr hf
  refine ⟨?noTag, ?short, ?fits, ?continuation⟩
  case noTag =>
    intro h0 hN
    exact ⟨_, step_of_fetchChunk_error hr hf h0 (fetchChunk_of_size_le_pos hN), raise_raises _ _⟩
  case short =>
    intro b0 h0 hb hN
    have hpos := Memory.lt_size_of_read hb
    exact ⟨mem_of_one_lt_chunkLength (by omega), _,
      step_of_fetchChunk_error hr hf h0 (fetchChunk_of_short hb hN), raise_raises _ _⟩
  case fits =>
    intro b0 h0 hb hN
    obtain ⟨i, rest, hi, hlen, hplace⟩ := decodeChunk_window_of_fits hb hN
    exact ⟨i, rest, hi, hlen, hplace, step_of_decodeChunk_ok hr hf h0 hi⟩
  case continuation =>
    intro h0
    exact ⟨_, step_eq_runContinue hr hf h0, runContinue_err s, runContinue_pos s⟩

end Sys2Proof
end

section
/-!
PROOFS of the family 42_literal_chunks.md: QOI_OP_RGBA (R140) and QOI_OP_RGB (R141), each from three facts:
what its commit leaves, what its bytes decode to, and what a payload cut short raises.
-/
namespace Sys2Proof
open Sys2Proof.Machine

/-! ### What the literal chunks commit, where a chunk is executed -/

/-- Any chunk whose meaning is `commitChunk` completes and leaves the commit's whole frame. -/
theorem commitChunk_commits {s : State} (len : Nat) (p : Pixel) (hf : s.fsm = .decode) (h0 : s.run = 0#6) :
    ∃ t, commitChunk len p s = .next t ∧ Commits p len s t :=
  ⟨_, commitChunk_of hf h0 len p, commit_commits p len s⟩

theorem exec_rgba_eq_commitChunk (r g b a : Byte) (s : State) :
    exec (.rgba r g b a) s = commitChunk 5 ⟨r, g, b, a⟩ s := rfl

/-- The alpha committed is that of PX before the step (R141). -/
theorem exec_rgb_eq_commitChunk (r g b : Byte) (s : State) :
    exec (.rgb r g b) s = commitChunk 4 ⟨r, g, b, s.px.a⟩ s := rfl

/-! ### What their bytes decode to -/

theorem decodeChunk_0xFF (r g b a : Byte) (rest : List Byte) :
    decodeChunk (0xFF#8 :: r :: g :: b :: a :: rest) = .ok (.rgba r g b a, rest) := by
  rw [decodeChunk_cons, classify_0xFF, decodeBody]

theorem decodeChunk_0xFE (r g b : Byte) (rest : List Byte) :
    decodeChunk (0xFE#8 :: r :: g :: b :: rest) = .ok (.rgb r g b, rest) := by
  rw [decodeChunk_cons, classify_0xFE, decodeBody]

/-! ### A payload cut short (R124 (b)) -/

/-- The tag at POS alone decides how many bytes IN must still hold. -/
theorem step_raises_truncated_of_short {s : State} {b0 : Byte} (hr : s.request = none)
    (hf : s.fsm = .decode) (h0 : s.run = 0#6) (hb : s.input.read s.pos = some b0)
    (hN : s.input.size < s.pos + chunkLength (classify b0)) :
    ∃ t, step s = .next t ∧ Raises .truncated s t :=
  ⟨_, step_of_fetchChunk_error hr hf h0 (fetchChunk_of_short hb hN), raise_raises _ _⟩

/-- Settles O10: the meaning of QOI_OP_RGBA is a commit of its payload with length 5, the length that the
classification gives the tag FF. -/
theorem rgbaCommitsItsPayload : Obligations.RgbaCommitsItsPayload := by
  refine ⟨?commits, decodeChunk_0xFF, ?short⟩
  case commits =>
    intro s r g b a hf h0
    rw [exec_rgba_eq_commitChunk]
    exact commitChunk_commits 5 _ hf h0
  case short =>
    intro s hr hf h0 hb hN
    exact step_raises_truncated_of_short hr hf h0 hb (by rwa [classify_0xFF])

/-- Settles O11: the meaning of QOI_OP_RGB is a commit of its payload under PX's alpha with length 4, the
length that the classification gives the tag FE. -/
theorem rgbKeepsAlpha : Obligations.RgbKeepsAlpha := by
  refine ⟨?commits, decodeChunk_0xFE, ?short⟩
  case commits =>
    intro s r g b hf h0
    rw [exec_rgb_eq_commitChunk]
    exact commitChunk_commits 4 _ hf h0
  case short =>
    intro s hr hf h0 hb hN
    exact step_raises_truncated_of_short hr hf h0 hb (by rwa [classify_0xFE])

end Sys2Proof
end

section
/-!
PROOFS of the family 43_index_chunk.md: QOI_OP_INDEX (R151), from what its commit leaves and what its tag byte
decodes to.
-/
namespace Sys2Proof
open Sys2Proof.Machine

/-- The entry is read from the cache of the state before the step. -/
theorem exec_index_eq_commitChunk (i : BitVec 6) (s : State) :
    exec (.index i) s = commitChunk 1 (readCache s.cache i) s := rfl

/-- The chunk is its tag byte alone, so the bytes after it are returned whole. -/
theorem decodeChunk_indexByte (i : BitVec 6) (rest : List Byte) :
    decodeChunk ((0b00#2 ++ i : BitVec 8) :: rest) = .ok (.index i, rest) := by
  obtain ⟨hkind, hfield⟩ := classify_index i
  rw [decodeChunk_cons, hkind, decodeBody, hfield]

/-- Settles O12: the meaning of QOI_OP_INDEX is a commit, with length 1, of the entry its field names. -/
theorem indexCommitsItsEntry : Obligations.IndexCommitsItsEntry := by
  refine ⟨?commits, decodeChunk_indexByte⟩
  case commits =>
    intro s i hf h0
    rw [exec_index_eq_commitChunk]
    exact commitChunk_commits 1 _ hf h0

end Sys2Proof
end

section
/-!
PROOFS of the family 45_run_chunk.md: the fetch step of QOI_OP_RUN (R171): its two outcomes where a chunk is
executed, what the run it starts leaves, and what its tag byte decodes to.
-/
namespace Sys2Proof
open Sys2Proof.Machine

/-! ### The two outcomes of the fetch step -/

theorem exec_run_of_overshoot {s : State} {n : BitVec 6} (hf : s.fsm = .decode) (h0 : s.run = 0#6)
    (hover : s.cfg.runOvershoot = .fail ∧ s.total - s.count < runLength n) :
    exec (.run n) s = .next (raise .pixelCountMismatch s) :=
  (whenChunkEnabled_of hf h0 _).trans (if_pos hover)

theorem exec_run_of_not_overshoot {s : State} {n : BitVec 6} (hf : s.fsm = .decode) (h0 : s.run = 0#6)
    (hover : ¬(s.cfg.runOvershoot = .fail ∧ s.total - s.count < runLength n)) :
    exec (.run n) s = .next (startRun n s) :=
  (whenChunkEnabled_of hf h0 _).trans (if_neg hover)

/-- Clipping, or a run within the budget, is what shuts the overshoot error out (R174). -/
theorem not_overshoot_of_clip_or_fits {s : State} {n : BitVec 6}
    (h : s.cfg.runOvershoot = .clip ∨ n.toNat + 1 ≤ s.total - s.count) :
    ¬(s.cfg.runOvershoot = .fail ∧ s.total - s.count < runLength n) := by
  rintro ⟨hfail, hlonger⟩
  rcases h with hclip | hfits
  · simp [hclip] at hfail
  · exact absurd hfits (Nat.not_le.mpr hlonger)

/-! ### What starting a run leaves -/

/-- The pixel of the fetch step is emitted with n owed, unless it is the last: then emit's clearing of
RUN wins over the load of n. -/
theorem startRun_emits (n : BitVec 6) (s : State) : Emits s.px n s (startRun n s) where
  out := by simp [pixelBytes]
  count := startRun_count n s
  fsm := startRun_fsm n s
  run := startRun_run n s

theorem startRun_sameSetup (n : BitVec 6) (s : State) : SameSetup s (startRun n s) := by
  constructor <;> simp

theorem startRun_remembers {s : State} (n : BitVec 6) (hw : s.cfg.runCacheWrite = true) :
    Remembers s.px s (startRun n s) where
  written := by simp [hw]
  others i hi := by simp [hw, readCache_writeCache_ne _ s.px hi]

theorem startRun_cache_of_not_write {s : State} (n : BitVec 6) (hw : s.cfg.runCacheWrite = false) :
    (startRun n s).cache = s.cache := by
  simp [hw]

/-! ### What its tag byte decodes to -/

/-- The chunk is its tag byte alone, so the bytes after it are returned whole. -/
theorem decodeChunk_runByte {n : BitVec 6} (rest : List Byte) (hn : n.toNat ≤ 61) :
    decodeChunk ((0b11#2 ++ n : BitVec 8) :: rest) = .ok (.run n, rest) := by
  obtain ⟨hkind, hfield⟩ := classify_run n hn
  rw [decodeChunk_cons, hkind, decodeBody, hfield]

/-- Settles O16: the overshoot test alone decides whether the fetch step starts the run or raises. -/
theorem runChunkEmitsOrRaises : Obligations.RunChunkEmitsOrRaises := by
  refine ⟨fun s n hf h0 => ⟨?starts, ?raises⟩, fun _ rest hn => decodeChunk_runByte rest hn⟩
  case starts =>
    intro hfits
    exact ⟨startRun n s, exec_run_of_not_overshoot hf h0 (not_overshoot_of_clip_or_fits hfits),
      startRun_px n s, startRun_emits n s, startRun_pos n s, startRun_sameSetup n s,
      startRun_remembers n, startRun_cache_of_not_write n⟩
  case raises =>
    intro hover
    exact ⟨_, exec_run_of_overshoot hf h0 hover, raise_raises _ s⟩

end Sys2Proof
end

section
/-!
PROOFS of 30_encoding.md, sections 1 to 7: the decoder and the encoder are inverse to each other (R70 to R82,
R90), every tag byte is a chunk (R84), and the written form assembles to the encoder's bytes (R86).
-/
namespace Sys2Proof
open Sys2Proof.Machine

/-! ### `decode`, by the decoder of each place -/

theorem decode_chunkStream_eq_some_iff {bs rest : List Byte} {i : Instr} :
    decode .chunkStream bs = some (i, rest) ↔ decodeChunk bs = .ok (i, rest) := by
  cases h : decodeChunk bs <;> simp [decode, h, Except.toOption]

theorem decode_fileStart_eq_some_iff {bs rest : List Byte} {i : Instr} :
    decode .fileStart bs = some (i, rest) ↔ decodeHeader bs = .ok (i, rest) := by
  cases h : decodeHeader bs <;> simp [decode, h, Except.toOption]

/-! ### What the encoder's bytes decode to -/

theorem decodeChunk_diffByte (sr sg sb : BitVec 2) (rest : List Byte) :
    decodeChunk (diffByte sr sg sb :: rest) = .ok (.diff sr sg sb, rest) := by
  obtain ⟨hkind, hfields⟩ := classify_diff sr sg sb
  rw [decodeChunk_cons, hkind, decodeBody, hfields]

theorem decodeChunk_lumaBytes (sg : BitVec 6) (srg sbg : BitVec 4) (rest : List Byte) :
    decodeChunk ((0b10#2 ++ sg : BitVec 8) :: lumaByte srg sbg :: rest) = .ok (.luma sg srg sbg, rest) := by
  obtain ⟨hkind, hfield⟩ := classify_luma sg
  rw [decodeChunk_cons, hkind, decodeBody, hfield, lumaFields_lumaByte]

theorem decodeChunk_encode {i : Instr} (rest : List Byte) (hw : i.wf = true) (hp : i.place = .chunkStream) :
    decodeChunk (encode i ++ rest) = .ok (i, rest) := by
  cases i with
  | rgba r g b a => exact decodeChunk_0xFF r g b a rest
  | rgb r g b => exact decodeChunk_0xFE r g b rest
  | index k => exact decodeChunk_indexByte k rest
  | diff sr sg sb => exact decodeChunk_diffByte sr sg sb rest
  | luma sg srg sbg => exact decodeChunk_lumaBytes sg srg sbg rest
  | run n => exact decodeChunk_runByte rest (of_decide_eq_true hw)
  | header w h c cs => cases hp
  | endMarker => cases hp

theorem decodeHeader_encode (w h : BitVec 32) (c cs : Byte) (rest : List Byte) :
    decodeHeader (encode (.header w h c cs) ++ rest) = .ok (.header w h c cs, rest) := by
  simp [encode, magic, be32Bytes, decodeHeader, be32_be32Bytes]

theorem decodeEndMarker_encode (rest : List Byte) :
    decodeEndMarker (encode .endMarker ++ rest) = some (.endMarker, rest) := rfl

/-- Settles O1: the round trip of each place's decoder, the chunks' by kind. -/
theorem decodeOfEncode : Obligations.DecodeOfEncode := by
  intro i rest hw
  cases i with
  | header w h c cs => exact decode_fileStart_eq_some_iff.mpr (decodeHeader_encode w h c cs rest)
  | endMarker => exact decodeEndMarker_encode rest
  | rgba | rgb | index | diff | luma | run =>
    exact decode_chunkStream_eq_some_iff.mpr (decodeChunk_encode rest hw rfl)

/-! ### A tag byte is its kind's tag bits followed by its fields -/

theorem eq_0xFF_of_classify : ∀ {b0 : Byte}, classify b0 = .rgba → b0 = 0xFF#8 := by decide

theorem eq_0xFE_of_classify : ∀ {b0 : Byte}, classify b0 = .rgb → b0 = 0xFE#8 := by decide

theorem indexTag_append_lowSix : ∀ {b0 : Byte}, classify b0 = .index → (0b00#2 ++ lowSix b0 : BitVec 8) = b0 := by
  decide

theorem diffByte_diffFields : ∀ {b0 : Byte}, classify b0 = .diff →
    diffByte (diffFields b0).1 (diffFields b0).2.1 (diffFields b0).2.2 = b0 := by decide

theorem lumaTag_append_lowSix : ∀ {b0 : Byte}, classify b0 = .luma → (0b10#2 ++ lowSix b0 : BitVec 8) = b0 := by
  decide

theorem lumaByte_lumaFields : ∀ b1 : Byte, lumaByte (lumaFields b1).1 (lumaFields b1).2 = b1 := by decide

theorem runTag_append_lowSix : ∀ {b0 : Byte}, classify b0 = .run → (0b11#2 ++ lowSix b0 : BitVec 8) = b0 := by
  decide

/-! ### Bytes that decode are the encoding -/

theorem encode_of_decodeBody {b0 : Byte} {k : ChunkKind} {bs rest : List Byte} {i : Instr}
    (hk : classify b0 = k) (h : decodeBody b0 k bs = .ok (i, rest)) : encode i ++ rest = b0 :: bs := by
  match k, bs, h with
  | .rgba, r :: g :: b :: a :: tl, h => cases h; rw [eq_0xFF_of_classify hk]; rfl
  | .rgb, r :: g :: b :: tl, h => cases h; rw [eq_0xFE_of_classify hk]; rfl
  | .index, tl, h => cases h; rw [encode, indexTag_append_lowSix hk]; rfl
  | .diff, tl, h => cases h; rw [encode, diffByte_diffFields hk]; rfl
  | .luma, b1 :: tl, h => cases h; rw [encode, lumaTag_append_lowSix hk, lumaByte_lumaFields]; rfl
  | .run, tl, h => cases h; rw [encode, runTag_append_lowSix hk]; rfl

theorem encode_of_decodeChunk {bs rest : List Byte} {i : Instr} (h : decodeChunk bs = .ok (i, rest)) :
    encode i ++ rest = bs := by
  cases bs with
  | nil => cases h
  | cons b0 bs => exact encode_of_decodeBody rfl h

theorem encode_of_decodeHeader {bs rest : List Byte} {i : Instr} (h : decodeHeader bs = .ok (i, rest)) :
    encode i ++ rest = bs := by
  unfold decodeHeader at h
  split at h
  · split at h
    · next hmagic => cases h; simp [encode, ← hmagic, be32Bytes_be32]
    · cases h
  · cases h

theorem decodeEndMarker_eq_some {bs rest : List Byte} {i : Instr} (h : decodeEndMarker bs = some (i, rest)) :
    i = .endMarker ∧ endMarkerBytes ++ rest = bs := by
  unfold decodeEndMarker at h
  split at h
  · split at h
    · next hmarker => cases h; simp [← hmarker]
    · cases h
  · cases h

/-- Settles O2: the converse round trip of each place's decoder. -/
theorem encodeOfDecode : Obligations.EncodeOfDecode := by
  intro p bs i rest h
  cases p with
  | fileStart =>
    have hok := decode_fileStart_eq_some_iff.mp h
    obtain ⟨-, w, ht, c, cs, rfl⟩ := decodeHeader_ok hok
    exact ⟨rfl, rfl, encode_of_decodeHeader hok⟩
  | chunkStream =>
    have hok := decode_chunkStream_eq_some_iff.mp h
    obtain ⟨hw, hp, -, -⟩ := decodeChunk_ok hok
    exact ⟨hp, hw, encode_of_decodeChunk hok⟩
  | fileEnd =>
    obtain ⟨rfl, hbs⟩ := decodeEndMarker_eq_some h
    exact ⟨rfl, rfl, hbs⟩

/-- Settles O4: where the tag's length is there, the chunk has that length; where not, nothing decodes. -/
theorem everyTagByteIsAChunk : Obligations.EveryTagByteIsAChunk := by
  intro b0 bs
  by_cases hl : chunkLength (classify b0) ≤ bs.length + 1
  · obtain ⟨j, hj, -, -, hlen⟩ := decodeChunk_long b0 bs hl
    refine ⟨iff_of_true ⟨j, _, hj⟩ hl, fun i rest h => ?_⟩
    obtain ⟨-, -, -, hrest⟩ := decodeChunk_ok h
    obtain ⟨rfl, -⟩ : j = i ∧ _ = rest := by simpa [hj] using h
    exact ⟨hlen, hrest⟩
  · have hshort := decodeChunk_short b0 bs (Nat.lt_of_not_le hl)
    simp [hshort, hl]

/-- Settles O5: the decoders compute, except that the header's two numbers are read off its encoding. -/
theorem sampleWordsDecode : Obligations.SampleWordsDecode := by
  refine ⟨rfl, rfl, rfl, rfl, rfl, rfl, ?header, rfl⟩
  case header => exact decode_fileStart_eq_some_iff.mpr (decodeHeader_encode 300 200 3 1 [])

/-! ### The written form (R86): ranges of the operand values -/

theorem within_eq_true_iff {lo v hi : Int} : within lo v hi = true ↔ lo ≤ v ∧ v < hi := by
  simp [within]

/-- An unsigned field of n bits, against the bound R86 writes for it. -/
theorem within_toNat {n : Nat} (x : BitVec n) {hi : Int} (hhi : hi = 2 ^ n) : within 0 x.toNat hi = true := by
  have hlt : (x.toNat : Int) < 2 ^ n := by exact_mod_cast x.isLt
  exact within_eq_true_iff.mpr ⟨Int.natCast_nonneg _, hhi ▸ hlt⟩

@[simp] theorem within_diffValue (s : BitVec 2) : within (-2) (diffValue s) 2 = true := by
  have := s.isLt
  rw [within_eq_true_iff, diffValue]; omega

@[simp] theorem within_lumaGreen (s : BitVec 6) : within (-32) (lumaGreen s) 32 = true := by
  have := s.isLt
  rw [within_eq_true_iff, lumaGreen]; omega

@[simp] theorem within_lumaRel (s : BitVec 4) : within (-8) (lumaRel s) 8 = true := by
  have := s.isLt
  rw [within_eq_true_iff, lumaRel]; omega

theorem within_runLength {n : BitVec 6} (h : n.toNat ≤ 61) : within 1 (runLength n) 63 = true := by
  rw [within_eq_true_iff, runLength]; omega

/-! ### The written form: R86's byte formulas -/

@[simp] theorem lowByte_toNat (b : Byte) : lowByte b.toNat = b := by
  simp [lowByte]

theorem lowByte_index : ∀ i : BitVec 6, lowByte i.toNat = (0b00#2 ++ i : BitVec 8) := by decide

theorem lowByte_diff : ∀ sr sg sb : BitVec 2,
    lowByte (0x40 + (diffValue sr + 2) * 16 + (diffValue sg + 2) * 4 + (diffValue sb + 2)) =
      diffByte sr sg sb := by decide

theorem lowByte_lumaTag : ∀ sg : BitVec 6, lowByte (0x80 + (lumaGreen sg + 32)) = (0b10#2 ++ sg : BitVec 8) := by
  decide

theorem lowByte_lumaNibbles : ∀ srg sbg : BitVec 4,
    lowByte ((lumaRel srg + 8) * 16 + (lumaRel sbg + 8)) = lumaByte srg sbg := by decide

theorem lowByte_run : ∀ n : BitVec 6, lowByte (0xC0 + ((runLength n : Int) - 1)) = (0b11#2 ++ n : BitVec 8) := by
  decide

/-- Settles O6: for each row the operand values are in range and the row's formula gives its bytes. -/
theorem writtenFormAssembles : Obligations.WrittenFormAssembles := by
  intro i hw
  have hbyte (b : Byte) : within 0 b.toNat 256 = true := within_toNat b rfl
  cases i with
  | rgba r g b a => simp [disassemble, assemble, encode, hbyte]
  | rgb r g b => simp [disassemble, assemble, encode, hbyte]
  | index k => simp [disassemble, assemble, encode, within_toNat k, lowByte_index]
  | diff sr sg sb => simp [disassemble, assemble, encode, lowByte_diff]
  | luma sg srg sbg => simp [disassemble, assemble, encode, lowByte_lumaTag, lowByte_lumaNibbles]
  | run n => simp [disassemble, assemble, encode, within_runLength (of_decide_eq_true hw), lowByte_run]
  | header w h c cs => simp [disassemble, assemble, encode, hbyte, within_toNat w, within_toNat h]
  | endMarker => rfl

end Sys2Proof
end

section
/-!
PROOFS, the layer the step's statements share: what a step without a host move can do (R120, R123, R190), said
once from step_cases and exec_chunk_cases, and that it always answers a next state.
-/
namespace Sys2Proof
open Sys2Proof.Machine

/-! ### The errors of a failed fetch -/

theorem decodeChunk_error {bs : List Byte} {e : DecodeError} (h : decodeChunk bs = .error e) :
    e = .noTag ∨ e = .shortChunk := by
  cases bs with
  | nil => cases h; exact .inl rfl
  | cons b0 bs =>
    by_cases hl : chunkLength (classify b0) ≤ bs.length + 1
    · obtain ⟨i, hi, -⟩ := decodeChunk_long b0 bs hl
      rw [hi] at h; cases h
    · rw [decodeChunk_short b0 bs (Nat.lt_of_not_le hl)] at h
      cases h; exact .inr rfl

/-- The fetch drops the bytes after the chunk and adds nothing. -/
theorem decodeChunk_of_fetchChunk_ok {s : State} {i : Instr} (h : fetchChunk s = .ok i) :
    ∃ rest, decodeChunk (s.input.window s.pos 5) = .ok (i, rest) := by
  cases hd : decodeChunk (s.input.window s.pos 5) with
  | ok p => rw [fetchChunk, hd] at h; cases h; exact ⟨p.2, rfl⟩
  | error e => rw [fetchChunk, hd] at h; cases h

theorem decodeChunk_of_fetchChunk_error {s : State} {e : DecodeError} (h : fetchChunk s = .error e) :
    decodeChunk (s.input.window s.pos 5) = .error e := by
  cases hd : decodeChunk (s.input.window s.pos 5) with
  | ok p => rw [fetchChunk, hd] at h; cases h
  | error e' => rw [fetchChunk, hd] at h; cases h; rfl

theorem fetchChunk_error {s : State} {e : DecodeError} (h : fetchChunk s = .error e) :
    fetchError e = .pixelCountMismatch ∨ fetchError e = .truncated := by
  rcases decodeChunk_error (decodeChunk_of_fetchChunk_error h) with rfl | rfl
  · exact .inl rfl
  · exact .inr rfl

theorem fetchError_ne_none (e : DecodeError) : fetchError e ≠ .none := by
  cases e <;> decide

theorem ne_none_of_checkConfig {cfg : Config} {w h : BitVec 32} {c : Byte} {e : ErrCode}
    (he : checkConfig cfg w h c = some e) : e ≠ .none := by
  rcases checkConfig_some he with rfl | rfl <;> decide

/-! ### A step that emits a pixel -/

/-- What a decode step that emits a pixel leaves, where `owed` repetitions remain: a chunk that
commits, a run that starts, and a continuation all go this way. -/
structure EmitStep (owed : BitVec 6) (s t : State) : Prop where
  emits : Emits t.px owed s t
  setup : SameSetup s t
  /-- PX is written into the cache; or neither changes, and then the parameter bars a run's write or the
  run had its write in an earlier step -/
  cache : t.cache = writeCache s.cache (pixelHash t.px) t.px ∨
    (t.px = s.px ∧ t.cache = s.cache ∧ (s.cfg.runCacheWrite = true → s.run ≠ 0#6))
  /-- a unit of at most 5 bytes is passed, all of which exist -/
  pos : s.pos ≤ t.pos ∧ t.pos ≤ s.pos + 5 ∧ (t.pos = s.pos ∨ t.pos ≤ s.input.size)
  owedMax : s.run.toNat ≤ 61 → owed.toNat ≤ 61

theorem runContinue_emits (s : State) : Emits s.px (s.run - 1#6) s (runContinue s) where
  out := by simp [pixelBytes]
  count := runContinue_count s
  fsm := runContinue_fsm s
  run := runContinue_run s

theorem runContinue_sameSetup (s : State) : SameSetup s (runContinue s) := by
  constructor <;> simp

/-- A continuation is only made where something is owed, so the subtraction does not wrap. -/
theorem toNat_sub_one {r : BitVec 6} (h0 : r ≠ 0#6) : (r - 1#6).toNat = r.toNat - 1 := by
  have hpos : r.toNat ≠ 0 := fun h => h0 (BitVec.eq_of_toNat_eq h)
  have := r.isLt
  rw [BitVec.toNat_sub, BitVec.toNat_ofNat]
  omega

theorem runContinue_emitStep {s : State} (h0 : s.run ≠ 0#6) : EmitStep (s.run - 1#6) s (runContinue s) where
  emits := by simpa using runContinue_emits s
  setup := runContinue_sameSetup s
  cache := .inr ⟨runContinue_px s, runContinue_cache s, fun _ => h0⟩
  pos := by simp
  owedMax hmax := by rw [toNat_sub_one h0]; omega

theorem startRun_emitStep {s : State} {n : BitVec 6} (hn : n.toNat ≤ 61) (hN : s.pos + 1 ≤ s.input.size) :
    EmitStep n s (startRun n s) where
  emits := by simpa using startRun_emits n s
  setup := startRun_sameSetup n s
  cache := by
    cases hw : s.cfg.runCacheWrite with
    | true => exact .inl (by simp [hw])
    | false => exact .inr ⟨startRun_px n s, startRun_cache_of_not_write n hw, nofun⟩
  pos := by simp [hN]
  owedMax _ := hn

theorem commit_emitStep {s : State} {len : Nat} (p : Pixel) (hlen : len ≤ 5) (hN : s.pos + len ≤ s.input.size) :
    EmitStep s.run s (advance len (commit p s)) where
  emits := by simpa using (commit_commits p len s).emits
  setup := (commit_commits p len s).setup
  cache := .inl (by simp)
  pos := by simp [hlen, hN]
  owedMax h := h

/-- A chunk is at most 5 bytes (R75). -/
theorem byteLength_le_of_chunkStream {i : Instr} (hp : i.place = .chunkStream) : i.byteLength ≤ 5 := by
  cases i with
  | header w h c cs => cases hp
  | endMarker => cases hp
  | rgba | rgb | index | diff | luma | run => simp [Instr.byteLength]

/-! ### Every way the block's own step goes -/

/-- Every way a step without a host move answers t. -/
inductive BlockCase (s t : State) : Prop where
  /-- IDLE, DONE, ERROR -/
  | quiet (hf : s.fsm = .idle ∨ s.fsm = .done ∨ s.fsm = .error) (ht : t = s)
  /-- the header step raises -/
  | headerRaised (e : ErrCode) (hf : s.fsm = .header) (he : e ≠ .none) (ht : t = raise e s)
  /-- the header step loads a legal configuration -/
  | loaded (w h : BitVec 32) (c cs : Byte) (hf : s.fsm = .header) (hN : 14 ≤ s.input.size)
      (hc : checkConfig s.cfg w h c = none) (ht : t = enterDecode 14 (loadConfig w h c cs s))
  /-- the fetch fails, or the run is too long -/
  | chunkRaised (e : ErrCode) (hf : s.fsm = .decode) (h0 : s.run = 0#6)
      (he : e = .pixelCountMismatch ∨ e = .truncated) (ht : t = raise e s)
  /-- a pixel is emitted -/
  | emitted (owed : BitVec 6) (hf : s.fsm = .decode) (hemit : EmitStep owed s t)

theorem blockCase_of_step {s t : State} (hr : s.request = none) (h : step s = .next t) : BlockCase s t := by
  cases step_cases h with
  | host m hm ht => rw [hr] at hm; cases hm
  | quiet _ hf ht => exact .quiet hf ht
  | headerError e _ hf he ht => exact .headerRaised _ hf (fetchError_ne_none e) ht
  | header w h c cs _ hf hi ht =>
    obtain ⟨hN, -⟩ := fetchHeader_ok hi
    obtain ⟨-, ⟨e, he, ht⟩ | ⟨hc, ht⟩⟩ := execHeader_next ht
    · exact .headerRaised e hf (ne_none_of_checkConfig he) ht
    · exact .loaded w h c cs hf hN hc ht
  | chunkError e _ hf h0 he ht => exact .chunkRaised _ hf h0 (fetchChunk_error he) ht
  | chunk i _ hf h0 hi hx =>
    obtain ⟨hw, hp, hN⟩ := fetchChunk_ok hi
    obtain ⟨-, -, hcase⟩ := exec_chunk_cases hp hx
    cases hcase with
    | overshoot n hi hc ho ht => exact .chunkRaised _ hf h0 (.inl rfl) ht
    | run n hi hc ht =>
      subst hi ht
      exact .emitted n hf (startRun_emitStep (of_decide_eq_true hw) hN)
    | commit p hi ht =>
      subst ht
      exact .emitted _ hf (commit_emitStep p (byteLength_le_of_chunkStream hp) hN)
  | runOn _ hf h0 ht =>
    subst ht
    exact .emitted _ hf (runContinue_emitStep h0)

/-! ### The block's own step always answers a next state -/

theorem exec_chunk_next {i : Instr} {s : State} (hp : i.place = .chunkStream) (hf : s.fsm = .decode)
    (h0 : s.run = 0#6) : ∃ t, exec i s = .next t := by
  cases i with
  | rgba r g b a => exact ⟨_, commitChunk_of hf h0 5 _⟩
  | rgb r g b => exact ⟨_, commitChunk_of hf h0 4 _⟩
  | index i => exact ⟨_, commitChunk_of hf h0 1 _⟩
  | diff sr sg sb => exact ⟨_, commitChunk_of hf h0 1 _⟩
  | luma sg srg sbg => exact ⟨_, commitChunk_of hf h0 2 _⟩
  | run n =>
    by_cases hover : s.cfg.runOvershoot = .fail ∧ s.total - s.count < runLength n
    · exact ⟨_, exec_run_of_overshoot hf h0 hover⟩
    · exact ⟨_, exec_run_of_not_overshoot hf h0 hover⟩
  | header w h c cs => cases hp
  | endMarker => cases hp

theorem exec_header_next {s : State} (w h : BitVec 32) (c cs : Byte) (hf : s.fsm = .header) :
    ∃ t, exec (.header w h c cs) s = .next t := by
  cases hc : checkConfig s.cfg w h c with
  | some e => exact ⟨_, exec_header_of_checkConfig_some cs hf hc⟩
  | none => exact ⟨_, exec_header_of_checkConfig_none cs hf hc⟩

theorem step_eq_blockStep {s : State} (hr : s.request = none) : step s = blockStep s := by
  simp [step, hr]

theorem step_eq_runFetched_header {s : State} (hr : s.request = none) (hf : s.fsm = .header) :
    step s = runFetched (fetchHeader s) s := by
  simp [step, blockStep, hr, hf]

theorem step_quiet {s : State} (hr : s.request = none) (hf : s.fsm = .idle ∨ s.fsm = .done ∨ s.fsm = .error) :
    step s = .next s := by
  rw [step_eq_blockStep hr, blockStep]
  rcases hf with hf | hf | hf <;> rw [hf]

theorem step_next {s : State} (hr : s.request = none) : ∃ t, step s = .next t := by
  cases hf : s.fsm with
  | idle => exact ⟨s, step_quiet hr (.inl hf)⟩
  | done => exact ⟨s, step_quiet hr (.inr (.inl hf))⟩
  | error => exact ⟨s, step_quiet hr (.inr (.inr hf))⟩
  | header =>
    rw [step_eq_runFetched_header hr hf]
    cases hx : fetchHeader s with
    | error e => exact ⟨_, rfl⟩
    | ok i =>
      obtain ⟨-, w, h, c, cs, rfl⟩ := fetchHeader_ok hx
      exact exec_header_next w h c cs hf
  | decode =>
    by_cases h0 : s.run = 0#6
    · rw [step_eq_runFetched hr hf h0]
      cases hx : fetchChunk s with
      | error e => exact ⟨_, rfl⟩
      | ok i => exact exec_chunk_next (fetchChunk_ok hx).2.1 hf h0
    · exact ⟨_, step_eq_runContinue hr hf h0⟩

end Sys2Proof
end

section
/-!
PROOFS of the invariant of every reachable state (R26 to R36, R131): it holds after reset, and each way a step can
go keeps it.
-/
namespace Sys2Proof
open Sys2Proof.Machine

/-! ### The seeds -/

theorem seeded_initial (cfg : Config) (m : Memory) : Seeded (initial cfg m) where
  px := rfl
  cache i := readCache_replicate zeroPixel i
  count := rfl
  run := rfl
  pos := rfl
  out := rfl

theorem unconfigured_initial (cfg : Config) (m : Memory) : Unconfigured (initial cfg m) := by
  constructor <;> rfl

theorem seeded_startedFile (cfg : Config) (bytes : List Byte) : Seeded (startedFile cfg bytes) where
  px := rfl
  cache i := readCache_replicate zeroPixel i
  count := rfl
  run := rfl
  pos := rfl
  out := rfl

theorem unconfigured_startedFile (cfg : Config) (bytes : List Byte) : Unconfigured (startedFile cfg bytes) := by
  constructor <;> rfl

/-- An error takes no piece of state but ERR and STATE. -/
theorem Machine.Seeded.raise {s : State} (h : Seeded s) (e : ErrCode) : Seeded (raise e s) :=
  ⟨h.px, h.cache, h.count, h.run, h.pos, h.out⟩

theorem Machine.Unconfigured.raise {s : State} (h : Unconfigured s) (e : ErrCode) : Unconfigured (raise e s) :=
  ⟨h.width, h.height, h.channels, h.colorspace, h.total, h.csNonstd⟩

/-- The core-mode start enters the loop at offset 0, so the cursor keeps its seed as well (R122). -/
theorem Machine.Seeded.enterDecode {s : State} (h : Seeded s) (w ht : BitVec 32) (c cs : Byte) :
    Seeded (enterDecode 0 (loadConfig w ht c cs s)) :=
  ⟨h.px, h.cache, h.count, h.run, rfl, h.out⟩

/-! ### The starts and the reset -/

theorem stateInv_of_seeded {s : State} (hseed : Seeded s) (hconf : Unconfigured s) (hwf : s.input.wf = true)
    (hfits : cursorHolds s.cfg s.input.size = true) (hfsm : s.fsm = .idle ∨ s.fsm = .header)
    (herr : s.err = .none) : StateInv s where
  input := hwf
  cache i := .inl (hseed.cache i)
  px := .inl hseed.px
  pxWrite _ hcount := by simp [hseed.count] at hcount
  pos := by simp [hseed.pos]
  fits := hfits
  total := by simp [hconf.total, hconf.width]
  csNonstd := by rw [hconf.csNonstd, hconf.colorspace]; rfl
  legal h := by rcases hfsm with hf | hf <;> simp [hf] at h
  count := by simp [hseed.count]
  owed h := by rcases hfsm with hf | hf <;> simp [hf] at h
  full h := by rcases hfsm with hf | hf <;> simp [hf] at h
  out := by simp [hseed.out, hseed.count]
  runMax := by simp [hseed.run]
  run h := absurd hseed.run h
  err := by rcases hfsm with hf | hf <;> simp [hf, herr]
  wait _ := ⟨hseed, hconf⟩

theorem stateInv_initial {cfg : Config} {m : Memory} (hwf : m.wf = true) (hfits : cursorHolds cfg m.size = true) :
    StateInv (initial cfg m) :=
  stateInv_of_seeded (seeded_initial cfg m) (unconfigured_initial cfg m) hwf hfits (.inl rfl) rfl

theorem stateInv_startedFile {cfg : Config} {bytes : List Byte} (hfits : cursorHolds cfg bytes.length = true) :
    StateInv (startedFile cfg bytes) :=
  stateInv_of_seeded (seeded_startedFile cfg bytes) (unconfigured_startedFile cfg bytes) (Memory.wf_ofBytes bytes)
    hfits (.inr rfl) rfl

/-! ### An error, and the entry into the loop -/

/-- R131 asks nothing of the configuration in ERROR, so only RUN has to be clear. -/
theorem stateInv_raise {s : State} (h : StateInv s) (h0 : s.run = 0#6) {e : ErrCode} (he : e ≠ .none) :
    StateInv (raise e s) where
  input := h.input
  cache := cacheInv_same h.cache rfl
  px := h.px
  pxWrite := h.pxWrite
  pos := h.pos
  fits := h.fits
  total := h.total
  csNonstd := h.csNonstd
  legal hf := by simp at hf
  count := h.count
  owed hf := by simp at hf
  full hf := by simp at hf
  out := h.out
  runMax := h.runMax
  run hr := absurd h0 hr
  err := iff_of_true he rfl
  wait hf := by simp at hf

theorem stateInv_enterDecode {s : State} (h : StateInv s) (hf : s.fsm = .idle ∨ s.fsm = .header)
    {w ht : BitVec 32} {c : Byte} (cs : Byte) (hc : checkConfig s.cfg w ht c = none) {first : Nat}
    (hN : first ≤ s.input.size) : StateInv (enterDecode first (loadConfig w ht c cs s)) := by
  obtain ⟨hseed, -⟩ := h.wait hf
  obtain ⟨hw0, hh0, hfit, hchan⟩ := (checkConfig_none_iff s.cfg w ht c).mp hc
  have hpos : 0 < w.toNat * ht.toNat :=
    Nat.mul_pos (Nat.pos_of_ne_zero fun e => hw0 (BitVec.eq_of_toNat_eq e))
      (Nat.pos_of_ne_zero fun e => hh0 (BitVec.eq_of_toNat_eq e))
  exact
    { input := h.input
      cache := cacheInv_same h.cache rfl
      px := h.px
      pxWrite := h.pxWrite
      pos := hN
      fits := h.fits
      total := rfl
      csNonstd := rfl
      legal := fun _ => ⟨hchan, hpos, hfit⟩
      count := by simp [hseed.count]
      owed := fun _ => by simpa [hseed.count] using hpos
      full := fun hd => by simp at hd
      out := by simp [hseed.out, hseed.count]
      runMax := h.runMax
      run := fun hr => absurd hseed.run hr
      err := by
        have hne : s.fsm ≠ .error := by rcases hf with hf | hf <;> simp [hf]
        simpa [hne] using h.err
      wait := fun hd => by simp at hd }

theorem stateInv_startedCore {cfg : Config} (w h : BitVec 32) (c cs : Byte) {bytes : List Byte}
    (hfits : cursorHolds cfg bytes.length = true) : StateInv (startedCore cfg w h c cs bytes) := by
  have hinit := stateInv_initial (Memory.wf_ofBytes bytes) hfits
  unfold startedCore
  cases hc : checkConfig cfg w h c with
  | some e => exact stateInv_raise hinit rfl (ne_none_of_checkConfig hc)
  | none => exact stateInv_enterDecode hinit (.inl rfl) cs hc (Nat.zero_le _)

theorem stateInv_hostMove {s t : State} {m : HostMove} (h : StateInv s) (ht : hostMove m s = .next t) :
    StateInv t := by
  cases m with
  | hardwareReset => cases ht; exact stateInv_initial h.input h.fits
  | startFile bytes =>
    obtain ⟨-, hfits, rfl⟩ := startAllowed_next ht
    exact stateInv_startedFile hfits
  | startCore w ht' c cs bytes =>
    obtain ⟨-, hfits, rfl⟩ := startAllowed_next ht
    exact stateInv_startedCore w ht' c cs hfits

/-! ### An emitted pixel -/

section EmitStep
variable {s t : State} {owed : BitVec 6} (hemit : EmitStep owed s t)
include hemit

theorem EmitStep.cacheInv (h : CacheInv s) : CacheInv t := by
  rcases hemit.cache with hwrite | ⟨-, hsame, -⟩
  · exact cacheInv_write h hwrite
  · exact cacheInv_same h hsame

/-- Either the step wrote PX into the cache, or what was cached still is. -/
theorem EmitStep.pxCached_or :
    PxCached t ∨
      (t.px = s.px ∧ (PxCached s → PxCached t) ∧ (s.cfg.runCacheWrite = true → s.run ≠ 0#6)) := by
  rcases hemit.cache with hwrite | ⟨hpx, hsame, hparam⟩
  · exact .inl (by rw [PxCached, hwrite]; simp)
  · exact .inr ⟨hpx, fun hc => by rwa [PxCached, hsame, hpx], hparam⟩

theorem EmitStep.out_eq : t.out = s.out ++ pixelBytes s.channels t.px := hemit.emits.out

/-- The last pixel of the budget ends the decode and clears RUN; any other leaves both to the loop (R127). -/
theorem EmitStep.fsm_cases (hf : s.fsm = .decode) :
    (s.count + 1 = s.total ∧ t.fsm = .done ∧ t.run = 0#6) ∨
      (s.count + 1 ≠ s.total ∧ t.fsm = .decode ∧ t.run = owed) := by
  have hfsm := hemit.emits.fsm
  have hrun := hemit.emits.run
  by_cases hlast : s.count + 1 = s.total
  · exact .inl ⟨hlast, by simpa [hlast] using hfsm, by simpa [hlast] using hrun⟩
  · exact .inr ⟨hlast, by simpa [hlast, hf] using hfsm, by simpa [hlast] using hrun⟩

end EmitStep

/-- CHANNELS = 4 or 3, and as many bytes (R127). -/
theorem pixelBytes_length {c : Byte} (hc : c = 3#8 ∨ c = 4#8) (p : Pixel) :
    (pixelBytes c p).length = c.toNat := by
  rcases hc with rfl | rfl <;> rfl

theorem stateInv_emitStep {s t : State} {owed : BitVec 6} (h : StateInv s) (hf : s.fsm = .decode)
    (hemit : EmitStep owed s t) : StateInv t := by
  have hset := hemit.setup
  obtain ⟨hchan, hone, hmax⟩ := h.legal (.inl hf)
  have hlt : s.count < s.total := h.owed hf
  have hcount := hemit.emits.count
  have htf := hemit.fsm_cases hf
  have hbusy : t.fsm = .decode ∨ t.fsm = .done := by
    rcases htf with ⟨-, hd, -⟩ | ⟨-, hd, -⟩
    · exact .inr hd
    · exact .inl hd
  exact
    { input := by rw [hset.input]; exact h.input
      cache := hemit.cacheInv h.cache
      px := by
        rcases hemit.pxCached_or with hc | ⟨hpx, hkeep, -⟩
        · exact .inr hc
        · exact h.px.imp (fun hs => hpx.trans hs) hkeep
      pxWrite := fun hw _ => by
        rw [hset.cfg] at hw
        rcases hemit.pxCached_or with hc | ⟨-, hkeep, hparam⟩
        · exact hc
        · exact hkeep (h.pxWrite hw (h.run (hparam hw)).2)
      pos := by
        have := h.pos
        obtain ⟨-, -, hp⟩ := hemit.pos
        rw [hset.input]; omega
      fits := by rw [hset.cfg, hset.input]; exact h.fits
      total := by rw [hset.total, hset.width, hset.height]; exact h.total
      csNonstd := by rw [hset.csNonstd, hset.colorspace]; exact h.csNonstd
      legal := fun _ => by rw [hset.channels, hset.total, hset.cfg]; exact ⟨hchan, hone, hmax⟩
      count := by rw [hcount, hset.total]; exact hlt
      owed := fun hd => by
        rcases htf with ⟨-, hdone, -⟩ | ⟨hne, -, -⟩
        · simp [hdone] at hd
        · rw [hcount, hset.total]; omega
      full := fun hd => by
        rcases htf with ⟨hlast, -, -⟩ | ⟨-, hdec, -⟩
        · rw [hcount, hset.total]; exact hlast
        · simp [hdec] at hd
      out := by
        rw [hemit.out_eq, List.length_append, h.out, pixelBytes_length hchan, hcount, hset.channels,
          Nat.succ_mul]
      runMax := by
        rcases htf with ⟨-, -, hr⟩ | ⟨-, -, hr⟩
        · simp [hr]
        · rw [hr]; exact hemit.owedMax h.runMax
      run := fun hne => by
        rcases htf with ⟨-, -, hr⟩ | ⟨-, hdec, -⟩
        · exact absurd hr hne
        · exact ⟨hdec, by omega⟩
      err := by
        have hs : s.err = .none := by simpa [hf] using h.err
        rcases hbusy with hd | hd <;> simp [hset.err, hs, hd]
      wait := fun hw => by rcases hbusy with hd | hd <;> simp [hd] at hw }

/-! ### Every step -/

theorem stateInv_blockCase {s t : State} (h : StateInv s) (hcase : BlockCase s t) : StateInv t := by
  cases hcase with
  | quiet hf ht => exact ht ▸ h
  | headerRaised e hf he ht => exact ht ▸ stateInv_raise h (h.wait (.inr hf)).1.run he
  | loaded w ht c cs hf hN hc heq => exact heq ▸ stateInv_enterDecode h (.inr hf) cs hc hN
  | chunkRaised e hf h0 he ht => exact ht ▸ stateInv_raise h h0 (by rcases he with rfl | rfl <;> decide)
  | emitted owed hf hemit => exact stateInv_emitStep h hf hemit

theorem stateInv_step {s t : State} (h : StateInv s) (hstep : step s = .next t) : StateInv t := by
  cases hr : s.request with
  | some m => exact stateInv_hostMove h (by rwa [step, hr] at hstep)
  | none => exact stateInv_blockCase h (blockCase_of_step hr hstep)

/-- Settles O52: a host's move starts from the seeds, and each way of the block's own step keeps the
invariant. -/
theorem invKeptByStep : Obligations.InvKeptByStep := fun _ _ => stateInv_step

/-- Settles O51: the reset state is the seeds with nothing bound. -/
theorem invAtReset : Obligations.InvAtReset :=
  stateInv_initial (cfg := Config.specValues) (m := ⟨[], 0⟩) rfl rfl

end Sys2Proof
end

section
/-!
PROOFS about the step: what it runs, what it may refuse, how it makes progress, and what it never changes (R14,
R120, R131, R132, R190, R193, R200). Each is read off the ways a step can go.
-/
namespace Sys2Proof
open Sys2Proof.Machine

/-! ### The step and the decoder -/

theorem step_of_decodeHeader_ok {s : State} {i : Instr} {rest : List Byte} (hr : s.request = none)
    (hf : s.fsm = .header) (hi : decodeHeader (s.input.window 0 14) = .ok (i, rest)) : step s = exec i s := by
  rw [step_eq_runFetched_header hr hf, fetchHeader, hi]
  rfl

/-- Settles O31: the fetch is the decoder on the window, and a fetched unit is executed as it is. -/
theorem stepRunsTheDecodedUnit : Obligations.StepRunsTheDecodedUnit :=
  ⟨fun _ _ _ hr hf h0 hi => step_of_decodeChunk_ok hr hf h0 hi,
    fun _ _ _ hr hf hi => step_of_decodeHeader_ok hr hf hi⟩

/-- Settles O33. -/
theorem quiescentStatesKeepEverything : Obligations.QuiescentStatesKeepEverything :=
  fun _ hr hf => step_quiet hr hf

/-! ### What a step may refuse -/

theorem startAllowed_ne_fault (s : State) (n : Nat) (t : State) (f : Fault) : startAllowed s n t ≠ .fault f := by
  unfold startAllowed
  split
  · nofun
  · split <;> nofun

theorem hostMove_ne_fault (m : HostMove) (s : State) (f : Fault) : hostMove m s ≠ .fault f := by
  cases m with
  | hardwareReset => nofun
  | startFile bytes => exact startAllowed_ne_fault s _ _ f
  | startCore w h c cs bytes => exact startAllowed_ne_fault s _ _ f

/-- A refused move is a start, which brought the bytes the cursor cannot count, or came while busy. -/
theorem hostMove_refused {m : HostMove} {s : State} {r : Refusal} (h : hostMove m s = .refused r) :
    ∃ bytes, (m = .startFile bytes ∨ ∃ w ht c cs, m = .startCore w ht c cs bytes) ∧
      ((r = .startWhileBusy ∧ (s.fsm = .header ∨ s.fsm = .decode)) ∨
        (r = .inputTooLong ∧ cursorHolds s.cfg bytes.length = false)) := by
  cases m with
  | hardwareReset => cases h
  | startFile bytes => exact ⟨bytes, .inl rfl, startAllowed_refused h⟩
  | startCore w ht c cs bytes => exact ⟨bytes, .inr ⟨w, ht, c, cs, rfl⟩, startAllowed_refused h⟩

/-- Settles O34: without a host move the step answers a next state, and of the moves only a start is refused. -/
theorem stepRefusesOnlyBadStarts : Obligations.StepRefusesOnlyBadStarts := by
  intro s
  cases hr : s.request with
  | none =>
    obtain ⟨t, ht⟩ := step_next hr
    simp [ht]
  | some m =>
    have hstep : step s = hostMove m s := by rw [step, hr]
    rw [hstep]
    refine ⟨hostMove_ne_fault m s, fun r h => ⟨m, rfl, ?_⟩⟩
    obtain ⟨bytes, hm, hwhy⟩ := hostMove_refused h
    have hstart : m ≠ .hardwareReset := by
      rcases hm with rfl | ⟨w, ht, c, cs, rfl⟩ <;> nofun
    refine ⟨hstart, hwhy.imp id fun ⟨hlong, hcursor⟩ => ?_⟩
    exact ⟨hlong, bytes, hm, hcursor, (cursorHolds_eq_false _ _).mp hcursor⟩

/-! ### Progress -/

/-- A decode step emits a pixel or raises one of two errors (R132). -/
theorem decode_step_cases {s t : State} (hr : s.request = none) (hf : s.fsm = .decode) (h : step s = .next t) :
    (∃ owed, EmitStep owed s t) ∨ Raises .pixelCountMismatch s t ∨ Raises .truncated s t := by
  cases blockCase_of_step hr h with
  | quiet hq ht => simp [hf] at hq
  | headerRaised e hh he ht => simp [hf] at hh
  | loaded w ht c cs hh hN hc heq => simp [hf] at hh
  | chunkRaised e _ h0 he ht =>
    subst ht
    rcases he with rfl | rfl
    · exact .inr (.inl (raise_raises _ s))
    · exact .inr (.inr (raise_raises _ s))
  | emitted owed _ hemit => exact .inl ⟨owed, hemit⟩

theorem EmitStep.fsm_ne_error {s t : State} {owed : BitVec 6} (hemit : EmitStep owed s t)
    (hf : s.fsm = .decode) : t.fsm ≠ .error := by
  rcases hemit.fsm_cases hf with ⟨-, hd, -⟩ | ⟨-, hd, -⟩ <;> simp [hd]

/-- A decode step that does not end in ERROR emits a pixel. -/
theorem emitStep_of_ne_error {s t : State} (hr : s.request = none) (hf : s.fsm = .decode)
    (h : step s = .next t) (hok : t.fsm ≠ .error) : ∃ owed, EmitStep owed s t := by
  rcases decode_step_cases hr hf h with hemit | hraise | hraise
  · exact hemit
  · exact absurd hraise.fsm hok
  · exact absurd hraise.fsm hok

/-- Settles O35. -/
theorem decodeStepMakesProgress : Obligations.DecodeStepMakesProgress := by
  intro s hr hf
  obtain ⟨t, ht⟩ := step_next hr
  refine ⟨t, ht, ?_⟩
  rcases decode_step_cases hr hf ht with ⟨owed, hemit⟩ | hraise
  · exact .inl ⟨hemit.emits.count, hemit.setup.err, hemit.fsm_ne_error hf, hemit.emits.out⟩
  · exact .inr hraise

/-- Running past a step that answers a next state, for any machine of the host's interface. -/
theorem run_succ_of_step {M : Host.Core} {s t : M.State} (k : Nat) (h : M.step s = .next t) :
    M.run (k + 1) s = M.run k t := by
  rw [Host.Core.run, h]

theorem core_run_succ {s t : State} (k : Nat) (h : step s = .next t) :
    Host.Core.run core (k + 1) s = Host.Core.run core k t :=
  run_succ_of_step (M := core) k h

/-- Induction on the pixels still to emit: each step in DECODE lowers their number or ends the decode. -/
theorem decode_reaches_end (d : Nat) : ∀ s : State, StateInv s → s.request = none → s.fsm = .decode →
    s.total - s.count = d →
    ∃ k t, k ≤ d ∧ Host.Core.run core k s = .next t ∧ (t.fsm = .done ∨ t.fsm = .error) := by
  induction d with
  | zero =>
    intro s hinv _ hf hd
    have := hinv.owed hf
    omega
  | succ d ih =>
    intro s hinv hr hf hd
    obtain ⟨u, hu⟩ := step_next hr
    have hend (h : u.fsm = .done ∨ u.fsm = .error) :
        ∃ k t, k ≤ d + 1 ∧ Host.Core.run core k s = .next t ∧ (t.fsm = .done ∨ t.fsm = .error) :=
      ⟨1, u, by omega, core_run_succ 0 hu, h⟩
    rcases decode_step_cases hr hf hu with ⟨owed, hemit⟩ | hraise | hraise
    · rcases hemit.fsm_cases hf with ⟨-, hdone, -⟩ | ⟨-, hdecode, -⟩
      · exact hend (.inl hdone)
      · have hleft : u.total - u.count = d := by
          rw [hemit.setup.total, hemit.emits.count]; omega
        obtain ⟨k, t, hk, ht, hfin⟩ :=
          ih u (stateInv_step hinv hu) (hemit.setup.request.trans hr) hdecode hleft
        exact ⟨k + 1, t, by omega, (core_run_succ k hu).trans ht, hfin⟩
    · exact hend (.inr hraise.fsm)
    · exact hend (.inr hraise.fsm)

/-- Settles O36. -/
theorem decodeTerminates : Obligations.DecodeTerminates :=
  fun s hinv hr hf => decode_reaches_end _ s hinv hr hf rfl

/-! ### What a step never changes -/

/-- Settles O38: only an emitted pixel adds to OUT, at its end. -/
theorem outputIsAppendOnly : Obligations.OutputIsAppendOnly := by
  intro s t hr h
  cases blockCase_of_step hr h with
  | quiet hf ht => exact ⟨[], by simp [ht]⟩
  | headerRaised e hf he ht => exact ⟨[], by simp [ht]⟩
  | loaded w h c cs hf hN hc ht => exact ⟨[], by simp [ht]⟩
  | chunkRaised e hf h0 he ht => exact ⟨[], by simp [ht]⟩
  | emitted owed hf hemit => exact ⟨_, hemit.out_eq⟩

theorem startedCore_cfg (cfg : Config) (w h : BitVec 32) (c cs : Byte) (bytes : List Byte) :
    (startedCore cfg w h c cs bytes).cfg = cfg := by
  unfold startedCore
  split <;> rfl

theorem hostMove_cfg {s t : State} {m : HostMove} (h : hostMove m s = .next t) : t.cfg = s.cfg := by
  cases m with
  | hardwareReset => cases h; rfl
  | startFile bytes =>
    obtain ⟨-, -, rfl⟩ := startAllowed_next h
    rfl
  | startCore w ht c cs bytes =>
    obtain ⟨-, -, rfl⟩ := startAllowed_next h
    exact startedCore_cfg s.cfg w ht c cs bytes

theorem BlockCase.fixed {s t : State} (hcase : BlockCase s t) :
    t.cfg = s.cfg ∧ t.input = s.input ∧ t.request = s.request := by
  cases hcase with
  | quiet hf ht => simp [ht]
  | headerRaised e hf he ht => simp [ht]
  | loaded w h c cs hf hN hc ht => simp [ht]
  | chunkRaised e hf h0 he ht => simp [ht]
  | emitted owed hf hemit => exact ⟨hemit.setup.cfg, hemit.setup.input, hemit.setup.request⟩

/-- Settles O40. -/
theorem inputAndParametersAreFixed : Obligations.InputAndParametersAreFixed := by
  intro s t h
  cases hr : s.request with
  | some m => exact ⟨hostMove_cfg (by rwa [step, hr] at h), nofun⟩
  | none =>
    obtain ⟨hcfg, hinput, hreq⟩ := (blockCase_of_step hr h).fixed
    exact ⟨hcfg, fun _ => ⟨hinput, hreq.trans hr⟩⟩

/-- Settles O39: the header is 14 bytes from offset 0, a chunk at most 5 from POS. -/
theorem cursorMovesForward : Obligations.CursorMovesForward := by
  intro s t hinv hr h
  have hN := hinv.pos
  cases blockCase_of_step hr h with
  | quiet hf ht => subst ht; exact ⟨Nat.le_refl _, hN, Nat.le_add_right _ _⟩
  | headerRaised e hf he ht => subst ht; exact ⟨Nat.le_refl _, hN, Nat.le_add_right _ _⟩
  | chunkRaised e hf h0 he ht => subst ht; exact ⟨Nat.le_refl _, hN, Nat.le_add_right _ _⟩
  | loaded w ht c cs hf hlen hc heq =>
    subst heq
    have hpos : s.pos = 0 := (hinv.wait (.inr hf)).1.pos
    simp [hpos, hf, hlen]
  | emitted owed hf hemit =>
    obtain ⟨hge, hle, hex⟩ := hemit.pos
    rw [hemit.setup.input]
    simp only [hf, reduceCtorEq, if_false]
    omega

/-! ### The second cache invariant (R26) -/

theorem pxCached_commit (p : Pixel) (len : Nat) (s : State) : PxCached (advance len (commit p s)) := by
  have hcommit := commit_commits p len s
  rw [PxCached, hcommit.px]
  exact hcommit.cache.written

/-- Settles O41: a commit writes PX where its hash says; a run writes the same or leaves both as they were. -/
theorem pxStaysInTheCache : Obligations.PxStaysInTheCache := by
  refine ⟨?establishes, ?keeps⟩
  case establishes =>
    intro i s t hp hrun h
    obtain ⟨-, -, hcase⟩ := exec_chunk_cases hp h
    cases hcase with
    | overshoot n hi hc ho ht => exact absurd hi (hrun n)
    | run n hi hc ht => exact absurd hi (hrun n)
    | commit p hi ht => exact ht ▸ pxCached_commit p _ s
  case keeps =>
    intro s t hr hpx h
    cases blockCase_of_step hr h with
    | quiet hf ht => exact ht ▸ hpx
    | headerRaised e hf he ht => exact ht ▸ hpx
    | loaded w ht c cs hf hN hc heq => exact heq ▸ hpx
    | chunkRaised e hf h0 he ht => exact ht ▸ hpx
    | emitted owed hf hemit =>
      rcases hemit.pxCached_or with hc | ⟨-, hkeep, -⟩
      · exact hc
      · exact hkeep hpx

/-! ### OUT and the result -/

/-- Settles O42: before the step OUT has COUNT * CHANNELS bytes, so the pixel's bytes begin there. -/
theorem pixelLandsAtItsOffset : Obligations.PixelLandsAtItsOffset := by
  intro s t hinv hr hf h hok
  obtain ⟨owed, hemit⟩ := emitStep_of_ne_error hr hf h hok
  have hlen : (pixelBytes s.channels t.px).length = s.channels.toNat :=
    pixelBytes_length (hinv.legal (.inl hf)).1 t.px
  rw [hemit.out_eq, ← hinv.out, List.drop_left, List.length_append, hlen, hinv.out]
  exact ⟨List.take_of_length_le (Nat.le_of_eq hlen), (Nat.succ_mul _ _).symm⟩

/-- Settles O48: in DONE the budget is full, and OUT has COUNT * CHANNELS bytes. -/
theorem resultOfADecode : Obligations.ResultOfADecode := by
  intro s hinv
  refine ⟨fun hf => ⟨by simp [resultOf, hf], ?length⟩, fun hf => ⟨by simp [resultOf, hf], hinv.err.mpr hf⟩⟩
  case length => rw [hinv.out, hinv.full hf, hinv.total]

/-! ### Bytes a step does not consume (R51) -/

theorem encode_length (i : Instr) : (encode i).length = i.byteLength := by
  cases i with
  | rgba r g b a => exact Laws.EncodedLength.rgba r g b a
  | rgb r g b => exact Laws.EncodedLength.rgb r g b
  | index i => exact Laws.EncodedLength.index i
  | diff sr sg sb => exact Laws.EncodedLength.diff sr sg sb
  | luma sg srg sbg => exact Laws.EncodedLength.luma sg srg sbg
  | run n => exact Laws.EncodedLength.run n
  | header w h c cs => exact Laws.EncodedLength.header w h c cs
  | endMarker => exact Laws.EncodedLength.endMarker

/-- A fetched chunk's encoding is the window of its length at POS, and nothing else decides the fetch. -/
theorem fetchChunk_ok_iff {s : State} {i : Instr} (hw : i.wf = true) (hp : i.place = .chunkStream) :
    fetchChunk s = .ok i ↔ s.input.window s.pos i.byteLength = encode i := by
  have htake : (s.input.window s.pos 5).take i.byteLength = s.input.window s.pos i.byteLength :=
    Memory.window_take _ _ (byteLength_le_of_chunkStream hp)
  constructor
  · intro h
    obtain ⟨rest, hd⟩ := decodeChunk_of_fetchChunk_ok h
    rw [← htake, ← encode_of_decodeChunk hd, ← encode_length, List.take_left]
  · intro h
    have hsplit : s.input.window s.pos 5 = encode i ++ (s.input.window s.pos 5).drop i.byteLength := by
      rw [← h, ← htake, List.take_append_drop]
    rw [fetchChunk, hsplit, decodeChunk_encode _ hw hp]
    rfl

theorem emit_withInput (p : Pixel) (s : State) (m : Memory) :
    emit p { s with input := m } = { emit p s with input := m } := by
  by_cases hlast : s.count + 1 = s.total <;> simp [emit, hlast]

theorem commit_withInput (p : Pixel) (s : State) (m : Memory) :
    commit p { s with input := m } = { commit p s with input := m } :=
  emit_withInput p (remember p { s with px := p }) m

theorem runRemember_withInput (s : State) (m : Memory) :
    runRemember { s with input := m } = { runRemember s with input := m } := by
  cases hw : s.cfg.runCacheWrite <;> simp [runRemember, remember, hw]

theorem startRun_withInput (n : BitVec 6) (s : State) (m : Memory) :
    startRun n { s with input := m } = { startRun n s with input := m } := by
  have hremember := runRemember_withInput { s with run := n } m
  have hemit := emit_withInput s.px (runRemember { s with run := n }) m
  exact congrArg (advance 1) ((congrArg (emit s.px) hremember).trans hemit)

theorem runContinue_withInput (s : State) (m : Memory) :
    runContinue { s with input := m } = { runContinue s with input := m } :=
  emit_withInput s.px { s with run := s.run - 1#6 } m

/-- What a chunk does with the pixel it has formed does not look at IN. -/
theorem commitChunk_withInput {s t : State} {len : Nat} {p : Pixel} (m : Memory)
    (h : commitChunk len p s = .next t) :
    commitChunk len p { s with input := m } = .next { t with input := m } := by
  obtain ⟨hf, h0, rfl⟩ := commitChunk_next h
  rw [commitChunk_of (s := { s with input := m }) hf h0, commit_withInput]
  rfl

theorem exec_chunk_withInput {i : Instr} {s t : State} (m : Memory) (hp : i.place = .chunkStream)
    (h : exec i s = .next t) : exec i { s with input := m } = .next { t with input := m } := by
  cases i with
  | rgba r g b a => exact commitChunk_withInput m h
  | rgb r g b => exact commitChunk_withInput m h
  | index i => exact commitChunk_withInput m h
  | diff sr sg sb => exact commitChunk_withInput m h
  | luma sg srg sbg => exact commitChunk_withInput m h
  | run n =>
    obtain ⟨hf, h0, ⟨hc, ho, rfl⟩ | ⟨hc, rfl⟩⟩ := execRun_next (h : execRun n s = .next t)
    · exact exec_run_of_overshoot (s := { s with input := m }) hf h0 ⟨hc, ho⟩
    · rw [exec_run_of_not_overshoot (s := { s with input := m }) hf h0 hc, startRun_withInput]
  | header w h c cs => cases hp
  | endMarker => cases hp

/-- A chunk that does not raise moves POS past itself. -/
theorem pos_of_exec_chunk {i : Instr} {s t : State} (hp : i.place = .chunkStream) (h : exec i s = .next t)
    (hok : t.fsm ≠ .error) : t.pos = s.pos + i.byteLength := by
  obtain ⟨-, -, hcase⟩ := exec_chunk_cases hp h
  cases hcase with
  | overshoot n hi hc ho ht => simp [ht] at hok
  | run n hi hc ht => simp [hi, ht, Instr.byteLength]
  | commit p hi ht => simp [ht]

/-- Settles O37: the bytes the step moves past are the fetched chunk's encoding, which is all the fetch looks
at; a continuation looks at none. -/
theorem unreadBytesDoNotMatter : Obligations.UnreadBytesDoNotMatter := by
  intro s t m hr hf h hok hagree
  cases step_cases h with
  | host mv hm ht => rw [hr] at hm; cases hm
  | quiet _ hq ht => simp [hf] at hq
  | headerError e _ hh he ht => simp [hf] at hh
  | header w ht c cs _ hh hi hx => simp [hf] at hh
  | chunkError e _ _ h0 he ht => simp [ht] at hok
  | chunk i _ _ h0 hi hx =>
    obtain ⟨hw, hp, -⟩ := fetchChunk_ok hi
    have hpos := pos_of_exec_chunk hp hx hok
    have hwindow : m.window s.pos i.byteLength = s.input.window s.pos i.byteLength :=
      Memory.window_congr fun k hk hlt => hagree k hk (by omega)
    have hfetch : fetchChunk { s with input := m } = .ok i :=
      (fetchChunk_ok_iff hw hp).mpr (hwindow.trans ((fetchChunk_ok_iff hw hp).mp hi))
    rw [step_eq_runFetched (s := { s with input := m }) hr hf h0, hfetch]
    exact exec_chunk_withInput m hp hx
  | runOn _ _ h0 ht =>
    rw [step_eq_runContinue (s := { s with input := m }) hr hf h0, runContinue_withInput, ht]

end Sys2Proof
end

section
/-!
PROOFS of 45_run_chunk.md: run continuation (R173), and that a clipped run step by step is the run in one step
(R176), by induction on the pixels it still emits.
-/
namespace Sys2Proof
open Sys2Proof.Machine

/-- Settles O17: where repetitions are owed the step is the continuation, which leaves what it emits. -/
theorem runContinuationEmitsPx : Obligations.RunContinuationEmitsPx := by
  intro s hr hf h0
  exact ⟨_, step_eq_runContinue hr hf h0, runContinue_px s, runContinue_cache s, runContinue_pos s,
    runContinue_emits s, runContinue_sameSetup s⟩

/-- A state is determined by what no chunk writes and the seven pieces a chunk may write. -/
theorem state_eq_of_sameSetup {s t : State} (hset : SameSetup s t) (hpx : t.px = s.px)
    (hcache : t.cache = s.cache) (hpos : t.pos = s.pos) (hcount : t.count = s.count) (hrun : t.run = s.run)
    (hfsm : t.fsm = s.fsm) (hout : t.out = s.out) : t = s := by
  obtain ⟨h1, h2, h3, h4, h5, h6, h7, h8, h9, h10⟩ := hset
  cases s
  cases t
  simp_all

/-- The state after m more pixels equal to PX, with nothing owed. -/
def afterPixels (m : Nat) (s : State) : State :=
  { s with
    out := s.out ++ (List.replicate m (pixelBytes s.channels s.px)).flatten
    count := s.count + m
    run := 0#6
    fsm := if s.count + m = s.total then .done else s.fsm }

/-- How many pixels of a clipped run are still to come: those owed, as far as the budget goes (R174). -/
def pixelsOwed (s : State) : Nat := min s.run.toNat (s.total - s.count)

theorem afterPixels_zero {s : State} (h0 : s.run = 0#6) (hfull : s.count = s.total → s.fsm = .done) :
    afterPixels 0 s = s := by
  have hfsm : (if s.count + 0 = s.total then Fsm.done else s.fsm) = s.fsm := by
    split
    · next hc => exact (hfull hc).symm
    · rfl
  exact state_eq_of_sameSetup (by constructor <;> rfl) rfl rfl rfl rfl h0.symm hfsm (by simp [afterPixels])

section Emits
variable {s t : State} {owed : BitVec 6} (hemit : Emits s.px owed s t) (hset : SameSetup s t)
include hemit hset

/-- One pixel emitted is one pixel fewer to come. -/
theorem pixelsOwed_of_emits (hlt : s.count < s.total) :
    pixelsOwed t + 1 = min (owed.toNat + 1) (s.total - s.count) := by
  rw [pixelsOwed, hemit.run, hemit.count, hset.total]
  split
  · next hlast => simp only [BitVec.toNat_ofNat, Nat.zero_mod]; omega
  · omega

/-- One pixel and then m of the same are m + 1 of them, if the first does not end the decode before the
others. -/
theorem afterPixels_of_emits (hpx : t.px = s.px) {m : Nat} (hlast : s.count + 1 = s.total → m = 0) :
    afterPixels m t = afterPixels (m + 1) { s with cache := t.cache, pos := t.pos } := by
  refine state_eq_of_sameSetup (by constructor <;> simp [afterPixels, hset.width, hset.height, hset.channels,
    hset.colorspace, hset.total, hset.err, hset.csNonstd, hset.input, hset.request, hset.cfg]) hpx rfl rfl
    ?count rfl ?fsm ?out
  case count => simp only [afterPixels, hemit.count]; omega
  case fsm =>
    simp only [afterPixels, hemit.count, hemit.fsm, hset.total, Nat.add_right_comm s.count 1 m, ← Nat.add_assoc]
    by_cases hl : s.count + 1 = s.total
    · simp [hlast hl, hl]
    · simp [hl]
  case out =>
    simp [afterPixels, hemit.out, hset.channels, hpx, List.replicate_succ, pixelBytes]

end Emits

/-- The continuation steps of a run, by induction on how many there are. -/
theorem run_core_pixelsOwed (m : Nat) : ∀ s : State, StateInv s → s.request = none →
    s.fsm = .decode ∨ s.fsm = .done → pixelsOwed s = m →
    Host.Core.run core m s = .next (afterPixels m s) := by
  induction m with
  | zero =>
    intro s hinv hr hf hm
    have h0 : s.run = 0#6 := by
      by_contra hne
      have hlt := hinv.owed (hinv.run hne).1
      have hpos : s.run.toNat ≠ 0 := fun h => hne (BitVec.eq_of_toNat_eq h)
      unfold pixelsOwed at hm
      omega
    have hfull (hc : s.count = s.total) : s.fsm = .done :=
      hf.resolve_left fun hd => by have := hinv.owed hd; omega
    rw [afterPixels_zero h0 hfull]
    rfl
  | succ m ih =>
    intro s hinv hr hf hm
    have h0 : s.run ≠ 0#6 := by
      intro h
      simp [pixelsOwed, h] at hm
    obtain ⟨hdecode, -⟩ := hinv.run h0
    have hlt := hinv.owed hdecode
    have hstep := step_eq_runContinue hr hdecode h0
    have hemit := runContinue_emits s
    have hset := runContinue_sameSetup s
    have hless : pixelsOwed (runContinue s) = m := by
      have := pixelsOwed_of_emits hemit hset hlt
      rw [toNat_sub_one h0] at this
      unfold pixelsOwed at hm
      omega
    have hlast (hl : s.count + 1 = s.total) : m = 0 := by unfold pixelsOwed at hm; omega
    have hfsm : (runContinue s).fsm = .decode ∨ (runContinue s).fsm = .done := by
      rw [runContinue_fsm]
      split
      · exact .inr rfl
      · exact .inl hdecode
    rw [core_run_succ m hstep, ih _ (stateInv_step hinv hstep) (hset.request.trans hr) hfsm hless,
      afterPixels_of_emits hemit hset (runContinue_px s) hlast]
    simp

/-- R176's one-step run is the cache write, the move past the chunk, and all the pixels at once. -/
theorem wholeRun_eq_afterPixels {s : State} (n : BitVec 6) (h0 : s.run = 0#6) :
    wholeRun n s = afterPixels (min (runLength n) (s.total - s.count))
      { s with cache := (startRun n s).cache, pos := (startRun n s).pos } :=
  state_eq_of_sameSetup (by constructor <;> rfl) rfl (startRun_cache n s).symm (startRun_pos n s).symm rfl h0 rfl rfl

/-- Settles O18: the fetch step emits the first pixel, the continuation steps the rest. -/
theorem wholeRunInOneStep : Obligations.WholeRunInOneStep := by
  intro s n hinv hr hf h0 hclip hfetch
  have hlt := hinv.owed hf
  have hstep : step s = .next (startRun n s) := by
    rw [step_eq_runFetched hr hf h0, hfetch]
    exact exec_run_of_not_overshoot hf h0 (not_overshoot_of_clip_or_fits (.inl hclip))
  have hemit := startRun_emits n s
  have hset := startRun_sameSetup n s
  have howed := pixelsOwed_of_emits hemit hset hlt
  have hlast (hl : s.count + 1 = s.total) : pixelsOwed (startRun n s) = 0 := by omega
  have hfsm : (startRun n s).fsm = .decode ∨ (startRun n s).fsm = .done := by
    rw [startRun_fsm]
    split
    · exact .inr rfl
    · exact .inl hf
  rw [wholeRun_eq_afterPixels n h0, runLength, ← howed, core_run_succ _ hstep,
    run_core_pixelsOwed _ _ (stateInv_step hinv hstep) (hset.request.trans hr) hfsm rfl,
    afterPixels_of_emits hemit hset (startRun_px n s) hlast]

end Sys2Proof
end

section
/-!
PROOFS of 43_index_chunk.md, 44_delta_chunks.md and the frames of the chunks: the hash (R150), the channel sums
(R164), which entry a chunk writes (R153, R172), and what each chunk leaves unchanged.
-/
namespace Sys2Proof
open Sys2Proof.Machine

/-! ### The hash (R150) and the channel sums (R164) -/

/-- Settles O7: the formula, and (0,0,0,0) and (64,0,0,0) as two pixels that share entry 0. -/
theorem hashOfAPixel : Obligations.HashOfAPixel := by
  refine ⟨pixelHash_toNat, ⟨⟨0, 0, 0, 0⟩, ⟨64, 0, 0, 0⟩, by decide, by decide⟩, ?_⟩
  decide

/-- Settles O8: 64 divides 256, so the carry out of eight bits does not reach the index. -/
theorem hashInEightBits : Obligations.HashInEightBits := by
  intro p
  apply BitVec.eq_of_toNat_eq
  simp only [pixelHash_toNat, BitVec.extractLsb'_toNat, BitVec.toNat_add, BitVec.toNat_mul, BitVec.toNat_ofNat,
    Nat.shiftRight_zero]
  omega

theorem addDelta_toNat (c : Byte) (d : Int) : ((addDelta c d).toNat : Int) = ((c.toNat : Int) + d) % 256 := by
  rw [addDelta, BitVec.toNat_ofInt, Int.toNat_of_nonneg (Int.emod_nonneg _ (by decide))]
  rfl

theorem addDelta_eq_add (c : Byte) (d : Int) : addDelta c d = c + BitVec.ofInt 8 d := by
  rw [addDelta, BitVec.ofInt_add, BitVec.ofInt_natCast, BitVec.ofNat_toNat, BitVec.setWidth_eq]

/-- Settles O9. -/
theorem channelSumsWrap : Obligations.ChannelSumsWrap :=
  fun c d => ⟨addDelta_toNat c d, addDelta_eq_add c d⟩

/-! ### The delta chunks -/

theorem exec_diff_eq_commitChunk (sr sg sb : BitVec 2) (s : State) :
    exec (.diff sr sg sb) s = commitChunk 1 (diffPixel s.px sr sg sb) s := rfl

theorem exec_luma_eq_commitChunk (sg : BitVec 6) (srg sbg : BitVec 4) (s : State) :
    exec (.luma sg srg sbg) s = commitChunk 2 (lumaPixel s.px sg srg sbg) s := rfl

/-- Settles O14. -/
theorem diffAddsSmallDeltas : Obligations.DiffAddsSmallDeltas := by
  intro s sr sg sb hf h0
  obtain ⟨t, ht, hcommit⟩ := commitChunk_commits 1 (diffPixel s.px sr sg sb) hf h0
  exact ⟨t, _, (exec_diff_eq_commitChunk sr sg sb s).trans ht, hcommit, addDelta_toNat _ _, addDelta_toNat _ _,
    addDelta_toNat _ _, rfl⟩

/-- Settles O15. -/
theorem lumaAddsGreenRelativeDeltas : Obligations.LumaAddsGreenRelativeDeltas := by
  intro s sg srg sbg hf h0
  obtain ⟨t, ht, hcommit⟩ := commitChunk_commits 2 (lumaPixel s.px sg srg sbg) hf h0
  exact ⟨t, _, (exec_luma_eq_commitChunk sg srg sbg s).trans ht, hcommit, addDelta_toNat _ _, addDelta_toNat _ _,
    addDelta_toNat _ _, rfl⟩

/-! ### Which entry a chunk writes -/

/-- Writing an entry back changes nothing. -/
theorem writeCache_readCache (c : Vector Pixel 64) (i : BitVec 6) : writeCache c i (readCache c i) = c := by
  apply cache_ext
  intro j
  rw [readCache_writeCache]
  split
  · next h => rw [h]
  · rfl

theorem writeCache_of_pxCached {s : State} (h : PxCached s) : writeCache s.cache (pixelHash s.px) s.px = s.cache := by
  have hback := writeCache_readCache s.cache (pixelHash s.px)
  rwa [show readCache s.cache (pixelHash s.px) = s.px from h] at hback

theorem pixelHash_zeroPixel : pixelHash zeroPixel = 0#6 := rfl

theorem pixelHash_seedPixel : pixelHash seedPixel = 53#6 := rfl

/-- Settles O13: an entry that does not stand at its hash is (0, 0, 0, 0), whose hash is 0. -/
theorem indexWritesTheHashEntry : Obligations.IndexWritesTheHashEntry := by
  intro s t i hinv h
  obtain ⟨-, -, ht⟩ := commitChunk_next (h : commitChunk 1 (readCache s.cache i) s = .next t)
  subst ht
  constructor
  · intro hhash
    simp [hhash, writeCache_readCache]
  · intro hhash
    have hzero : readCache s.cache i = zeroPixel := (hinv i).resolve_right hhash
    have hcommit := commit_commits (readCache s.cache i) 1 s
    rw [hzero] at hcommit ⊢
    obtain ⟨hwritten, hothers⟩ := hcommit.cache
    rw [pixelHash_zeroPixel] at hwritten hothers
    exact ⟨hcommit.px, hwritten, hothers⟩

/-- Settles O19: an overshoot leaves the cache; a started run writes PX at its hash if the parameter says so. -/
theorem runCacheWriteIsANoOpUnlessFirst : Obligations.RunCacheWriteIsANoOpUnlessFirst := by
  refine ⟨?cached, ?first⟩
  case cached =>
    intro s t n hpx h
    obtain ⟨-, -, ⟨-, -, rfl⟩ | ⟨-, rfl⟩⟩ := execRun_next (h : execRun n s = .next t)
    · rfl
    · simp [writeCache_of_pxCached hpx]
  case first =>
    intro s t n hpx hzero hclip h
    obtain ⟨-, -, ⟨hfail, -, -⟩ | ⟨-, rfl⟩⟩ := execRun_next (h : execRun n s = .next t)
    · simp [hclip] at hfail
    · have hseed : s.px = seedPixel := hpx
      rw [startRun_cache, hseed, pixelHash_seedPixel]
      cases s.cfg.runCacheWrite with
      | true => exact readCache_writeCache_same s.cache 53#6 seedPixel
      | false => exact hzero 53#6

/-! ### Frames -/

/-- Every chunk but the run commits some pixel. -/
theorem commits_of_exec {i : Instr} {s t : State} (hp : i.place = .chunkStream) (hrun : ∀ n, i ≠ .run n)
    (h : exec i s = .next t) : ∃ p, Commits p i.byteLength s t := by
  obtain ⟨-, -, hcase⟩ := exec_chunk_cases hp h
  cases hcase with
  | overshoot n hi hc ho ht => exact absurd hi (hrun n)
  | run n hi hc ht => exact absurd hi (hrun n)
  | commit p hi ht => exact ⟨p, ht ▸ commit_commits p _ s⟩

/-- Settles O27: the frame is that of a commit. -/
theorem frameOfCommittingChunks : Obligations.FrameOfCommittingChunks := by
  intro i s t hp hrun h
  obtain ⟨p, hcommit⟩ := commits_of_exec hp hrun h
  refine ⟨hcommit.setup, fun k => by rw [hcommit.setup.input], ?others, _, hcommit.emits.out, ?length⟩
  case others => rw [hcommit.px]; exact hcommit.cache.others
  case length => split <;> rfl

/-- A started run changes no entry but that of PX, whether or not it writes that one. -/
theorem readCache_startRun_of_ne (n : BitVec 6) {s : State} {j : BitVec 6} (hj : j ≠ pixelHash s.px) :
    readCache (startRun n s).cache j = readCache s.cache j := by
  cases hw : s.cfg.runCacheWrite with
  | true => exact (startRun_remembers n hw).others j hj
  | false => rw [startRun_cache_of_not_write n hw]

/-- Settles O28: the fetch step of a run raises or starts the run. -/
theorem frameOfRunChunk : Obligations.FrameOfRunChunk := by
  intro n s t h
  obtain ⟨-, -, ⟨-, -, rfl⟩ | ⟨-, rfl⟩⟩ := execRun_next (h : execRun n s = .next t)
  · exact ⟨rfl, rfl, rfl, rfl, rfl, rfl, rfl, rfl, rfl, fun _ => rfl, fun _ _ => rfl, fun _ => rfl,
      ⟨[], by simp⟩, .inr (raise_raises _ s)⟩
  · have hset := startRun_sameSetup n s
    exact ⟨startRun_px n s, hset.width, hset.height, hset.channels, hset.colorspace, hset.total, hset.csNonstd,
      hset.request, hset.cfg, fun k => by rw [hset.input], fun j hj => readCache_startRun_of_ne n hj,
      startRun_cache_of_not_write n, ⟨_, startRun_out n s⟩, .inl ⟨startRun_pos n s, hset.err⟩⟩

theorem sameSetup_refl (s : State) : SameSetup s s := by
  constructor <;> rfl

/-- The end marker does nothing in DONE and is the commit of entry 0 where chunks are fetched (R90). -/
theorem endMarker_next {s t : State} (h : exec .endMarker s = .next t) :
    t = s ∨ Commits (readCache s.cache 0#6) 1 s t := by
  rcases execEndMarker_next (h : execEndMarker s = .next t) with ⟨-, ht⟩ | ⟨-, hrecall⟩
  · exact .inl ht
  · obtain ⟨-, -, ht⟩ := commitChunk_next (hrecall : commitChunk 1 (readCache s.cache 0#6) s = .next t)
    exact .inr (ht ▸ commit_commits _ 1 s)

/-- Settles O30. -/
theorem frameOfEndMarker : Obligations.FrameOfEndMarker := by
  intro s t h
  rcases endMarker_next h with rfl | hcommit
  · exact ⟨sameSetup_refl _, fun _ => rfl, .inl rfl⟩
  · refine ⟨hcommit.setup, fun k => by rw [hcommit.setup.input], .inr ?_⟩
    rw [hcommit.px]
    exact hcommit.cache.others

theorem exec_endMarker_of_done {s : State} (hf : s.fsm = .done) : exec .endMarker s = .next s :=
  if_pos hf

theorem exec_endMarker_of_decode {s : State} (hf : s.fsm = .decode) :
    exec .endMarker s = exec (.index 0#6) s :=
  if_neg (by simp [hf])

/-- Settles O26: the marker's two bytes are the index tag with fields 0 and 1. -/
theorem endMarkerIsNeverConsumed : Obligations.EndMarkerIsNeverConsumed := by
  refine ⟨fun s => exec_endMarker_of_done, ?asIndex, ?bytes⟩
  case asIndex =>
    intro s hf h0
    obtain ⟨t, ht, hcommit⟩ := commitChunk_commits 1 (readCache s.cache 0#6) hf h0
    have hindex : exec (.index 0#6) s = .next t := (exec_index_eq_commitChunk 0#6 s).trans ht
    exact ⟨t, (exec_endMarker_of_decode hf).trans hindex, hindex, hcommit⟩
  case bytes =>
    intro rest
    exact ⟨decodeChunk_indexByte 0#6 rest, decodeChunk_indexByte 1#6 rest⟩

end Sys2Proof
end

section
/-!
PROOFS of 40_header.md: the header step from its bytes (R101, R103, R104, R107), what it loads, and what a header
error leaves (R108).
-/
namespace Sys2Proof
open Sys2Proof.Machine

/-! ### The configuration check (R103, R104) -/

theorem checkConfig_of_illegal_dimensions {cfg : Config} {w h : BitVec 32} (c : Byte)
    (hdim : w = 0#32 ∨ h = 0#32 ∨ 2 ^ cfg.cntW.bits ≤ w.toNat * h.toNat) :
    checkConfig cfg w h c = some .invalidDimensions := if_pos hdim

theorem checkConfig_eq_invalidDimensions_iff {cfg : Config} {w h : BitVec 32} {c : Byte} :
    checkConfig cfg w h c = some .invalidDimensions ↔
      w = 0#32 ∨ h = 0#32 ∨ 2 ^ cfg.cntW.bits ≤ w.toNat * h.toNat := by
  refine ⟨fun he => ?_, checkConfig_of_illegal_dimensions c⟩
  unfold checkConfig at he
  split at he
  · assumption
  · split at he <;> cases he

theorem eq_zero_iff_toNat (w : BitVec 32) : w = 0#32 ↔ w.toNat = 0 := by
  rw [← BitVec.toNat_inj]; rfl

/-- Settles O25: two 32-bit factors stay below 2^64. -/
theorem sixtyFourBitCountNeverOverflows : Obligations.SixtyFourBitCountNeverOverflows := by
  intro cfg w h c hbits
  have hfits : w.toNat * h.toNat < 2 ^ 32 * 2 ^ 32 := Nat.mul_lt_mul'' w.isLt h.isLt
  rw [checkConfig_eq_invalidDimensions_iff, hbits]
  have hover : ¬2 ^ 64 ≤ w.toNat * h.toNat := by omega
  rw [← or_assoc, or_iff_left hover]

/-- Settles O53: 1 * 1 is below every positive power of two. -/
theorem onePixelDimensionsPassTheCheck : Obligations.OnePixelDimensionsPassTheCheck := by
  intro cfg c
  have hfits : (1#32).toNat * (1#32).toNat < 2 ^ cfg.cntW.bits := Nat.one_lt_two_pow (bits_pos _).ne'
  refine ⟨bits_pos _, fun w _ => bits_pos w, ?_⟩
  rw [checkConfig_none_iff]
  exact ⟨fun ⟨_, _, _, hc⟩ => hc, fun hc => ⟨by decide, by decide, hfits, hc⟩⟩

/-! ### The header step as an instruction -/

theorem csNonstdOf_eq_true_iff (cs : Byte) : csNonstdOf cs = true ↔ 1 < cs.toNat := by
  simp [csNonstdOf]

theorem configured_enterDecode (first : Nat) (w h : BitVec 32) (c cs : Byte) (s : State) :
    Configured w h c cs (enterDecode first (loadConfig w h c cs s)) where
  width := rfl
  height := rfl
  channels := rfl
  colorspace := rfl
  total := rfl
  csNonstd := csNonstdOf_eq_true_iff cs

theorem headerKeeps_enterDecode (first : Nat) (w h : BitVec 32) (c cs : Byte) (s : State) :
    HeaderKeeps s (enterDecode first (loadConfig w h c cs s)) := by
  constructor <;> rfl

theorem headerKeeps_raise (e : ErrCode) (s : State) : HeaderKeeps s (raise e s) := by
  constructor <;> rfl

/-- Settles O23. -/
theorem headerCompletes : Obligations.HeaderCompletes := by
  intro s w h c cs hf hw hh hwh hc
  have hpass : checkConfig s.cfg w h c = none := (checkConfig_none_iff s.cfg w h c).mpr ⟨hw, hh, hwh, hc⟩
  exact ⟨_, exec_header_of_checkConfig_none cs hf hpass, configured_enterDecode 14 w h c cs s, rfl, rfl, rfl,
    headerKeeps_enterDecode 14 w h c cs s⟩

/-- Settles O29. -/
theorem frameOfHeader : Obligations.FrameOfHeader := by
  intro w h c cs s t hx
  obtain ⟨-, ⟨e, -, rfl⟩ | ⟨-, rfl⟩⟩ := execHeader_next (hx : execHeader w h c cs s = .next t)
  · exact ⟨headerKeeps_raise e s, fun _ => rfl, .inr ⟨e, raise_raises e s⟩⟩
  · exact ⟨headerKeeps_enterDecode 14 w h c cs s, fun _ => rfl, .inl rfl⟩

/-- Settles O24: the seeds of the state before stay, since an error takes nothing but ERR and STATE. -/
theorem headerErrorReportsNothing : Obligations.HeaderErrorReportsNothing := by
  intro s t hinv hr hf h herr
  obtain ⟨hseed, hconf⟩ := hinv.wait (.inr hf)
  cases blockCase_of_step hr h with
  | quiet hq ht => simp [hf] at hq
  | loaded w ht c cs _ hN hc heq => simp [heq] at herr
  | chunkRaised e hd h0 he ht => simp [hf] at hd
  | emitted owed hd hemit => simp [hf] at hd
  | headerRaised e _ he ht =>
    subst ht
    exact ⟨hseed.raise e, hconf.raise e, he, rfl⟩

/-! ### The header's bytes -/

theorem decodeHeader_short {bs : List Byte} (h : bs.length < 14) : decodeHeader bs = .error .shortHeader := by
  unfold decodeHeader
  split
  · simp only [List.length_cons] at h; omega
  · rfl

theorem decodeHeader_badMagic {bs : List Byte} (hlen : 14 ≤ bs.length) (hmagic : bs.take 4 ≠ magic) :
    decodeHeader bs = .error .badMagic := by
  match bs, hlen with
  | m0 :: m1 :: m2 :: m3 :: w0 :: w1 :: w2 :: w3 :: h0 :: h1 :: h2 :: h3 :: c :: cs :: tl, _ =>
    exact if_neg hmagic

theorem step_of_decodeHeader_error {s : State} {e : DecodeError} (hr : s.request = none) (hf : s.fsm = .header)
    (he : decodeHeader (s.input.window 0 14) = .error e) : step s = .next (raise (fetchError e) s) := by
  rw [step_eq_runFetched_header hr hf, fetchHeader, he]
  rfl

/-- Settles O21: the window is the whole header or shorter, and its first four bytes are the magic or not. -/
theorem headerFetchChecks : Obligations.HeaderFetchChecks := by
  intro s hr hf
  have hlen := Memory.window_length s.input 0 14
  constructor
  · intro hN
    have hshort := decodeHeader_short (bs := s.input.window 0 14) (by omega)
    exact ⟨_, step_of_decodeHeader_error hr hf hshort, raise_raises _ s⟩
  · intro hN hmagic
    have hbad := decodeHeader_badMagic (bs := s.input.window 0 14) (by omega)
      (by rwa [Memory.window_take _ _ (by omega)])
    exact ⟨_, step_of_decodeHeader_error hr hf hbad, raise_raises _ s⟩

theorem decodeHeader_of_magic (w0 w1 w2 w3 h0 h1 h2 h3 c cs : Byte) (rest : List Byte) :
    decodeHeader (0x71#8 :: 0x6F#8 :: 0x69#8 :: 0x66#8 :: w0 :: w1 :: w2 :: w3 :: h0 :: h1 :: h2 :: h3 :: c :: cs ::
      rest) = .ok (.header (be32 w0 w1 w2 w3) (be32 h0 h1 h2 h3) c cs, rest) := by
  simp [decodeHeader, magic]

/-- Settles O20: the bytes are a header, whose two numbers are big-endian, and the step is its meaning. -/
theorem headerStepOnBytes : Obligations.HeaderStepOnBytes := by
  intro s w0 w1 w2 w3 h0 h1 h2 h3 c cs w h hr hf hbytes hw hh
  have hwindow := Memory.window_of_reads (a := 0) (m := s.input)
    (bs := [0x71#8, 0x6F#8, 0x69#8, 0x66#8, w0, w1, w2, w3, h0, h1, h2, h3, c, cs])
    fun k hk => by rw [Nat.zero_add]; exact hbytes k hk
  have hstep : step s = exec (.header (be32 w0 w1 w2 w3) (be32 h0 h1 h2 h3) c cs) s :=
    step_of_decodeHeader_ok hr hf (hwindow ▸ decodeHeader_of_magic w0 w1 w2 w3 h0 h1 h2 h3 c cs [])
  rw [← be32_toNat] at hw hh
  generalize be32 w0 w1 w2 w3 = W at hstep hw
  generalize be32 h0 h1 h2 h3 = H at hstep hh
  subst hw hh
  simp only [ne_eq, ← eq_zero_iff_toNat, hstep]
  refine ⟨?dimensions, ?channels, ?loads⟩
  case dimensions =>
    intro hdim
    exact ⟨_, exec_header_of_checkConfig_some cs hf (checkConfig_of_illegal_dimensions c hdim), raise_raises _ s⟩
  case channels =>
    intro hW hH hfits h3 h4
    have hfail := checkConfig_of_illegal_channels (cfg := s.cfg) hW hH hfits (not_or.mpr ⟨h3, h4⟩)
    exact ⟨_, exec_header_of_checkConfig_some cs hf hfail, raise_raises _ s⟩
  case loads =>
    intro hW hH hfits hc
    obtain ⟨t, ht, hconf, hpos, hfsm, herr, hkeep⟩ := headerCompletes s W H c cs hf hW hH hfits hc
    exact ⟨t, ht, congrArg _ hconf.width, congrArg _ hconf.height, hconf.total, hconf.channels, hconf.colorspace,
      hconf.csNonstd, hpos, hfsm, herr, hkeep⟩

end Sys2Proof
end

section
/-!
PROOFS about the host: the starts, the reset and the state after it (R39, R121, R122, R211, R212, R218), and the
window ports (R62, R63).
-/
namespace Sys2Proof
open Sys2Proof.Machine

/-! ### The host's move -/

theorem step_of_request {s : State} {m : HostMove} (hr : s.request = some m) : step s = hostMove m s := by
  rw [step, hr]

theorem busy_eq_true_iff (s : State) : busy s = true ↔ s.fsm = .header ∨ s.fsm = .decode := by
  simp [busy]

theorem busy_eq_false_iff (s : State) : busy s = false ↔ s.fsm ≠ .header ∧ s.fsm ≠ .decode := by
  simp [busy]

theorem not_busy_of_quiet {s : State} (hf : s.fsm = .idle ∨ s.fsm = .done ∨ s.fsm = .error) : busy s = false := by
  rw [busy_eq_false_iff]
  rcases hf with hf | hf | hf <;> simp [hf]

theorem startAllowed_of_busy {s : State} (h : busy s = true) (n : Nat) (t : State) :
    startAllowed s n t = .refused .startWhileBusy := if_pos h

/-- Where no decode runs, a start depends on the parameters alone. -/
theorem startAllowed_of_not_busy {s : State} (h : busy s = false) (n : Nat) (t : State) :
    startAllowed s n t = if cursorHolds s.cfg n then .next t else .refused .inputTooLong := by
  rw [startAllowed, h]
  rfl

theorem startAllowed_of {s : State} {n : Nat} (hf : s.fsm = .idle ∨ s.fsm = .done ∨ s.fsm = .error)
    (hfits : cursorHolds s.cfg n = true) (t : State) : startAllowed s n t = .next t := by
  rw [startAllowed_of_not_busy (not_busy_of_quiet hf), hfits]
  rfl

/-- Settles O43: the started state is the reset state with STATE = HEADER and IN bound. -/
theorem fileStartInitialises : Obligations.FileStartInitialises := by
  intro s bytes hr hf hfits
  have hstep : step s = .next (startedFile s.cfg bytes) :=
    (step_of_request hr).trans (startAllowed_of hf hfits _)
  exact ⟨_, hstep, seeded_startedFile s.cfg bytes, unconfigured_startedFile s.cfg bytes, rfl, rfl, rfl,
    Memory.read_ofBytes bytes, rfl, rfl⟩

/-! ### The core-mode start, by the outcome of the configuration check -/

theorem startedCore_of_checkConfig_some {cfg : Config} {w h : BitVec 32} {c : Byte} {e : ErrCode} (cs : Byte)
    (bytes : List Byte) (hc : checkConfig cfg w h c = some e) :
    startedCore cfg w h c cs bytes = raise e (initial cfg (Memory.ofBytes bytes)) := by
  rw [startedCore, hc]

theorem startedCore_of_checkConfig_none {cfg : Config} {w h : BitVec 32} {c : Byte} (cs : Byte)
    (bytes : List Byte) (hc : checkConfig cfg w h c = none) :
    startedCore cfg w h c cs bytes = enterDecode 0 (loadConfig w h c cs (initial cfg (Memory.ofBytes bytes))) := by
  rw [startedCore, hc]

/-- Settles O44: the seeds whatever the check says; the configuration by the check's three outcomes. -/
theorem coreStartConfigures : Obligations.CoreStartConfigures := by
  intro s w h c cs bytes hr hf hfits
  have hstep : step s = .next (startedCore s.cfg w h c cs bytes) :=
    (step_of_request hr).trans (startAllowed_of hf hfits _)
  have hseed := seeded_initial s.cfg (Memory.ofBytes bytes)
  have hconf := unconfigured_initial s.cfg (Memory.ofBytes bytes)
  refine ⟨_, hstep, ?_⟩
  split
  · next hdim =>
    rw [startedCore_of_checkConfig_some cs bytes (checkConfig_of_illegal_dimensions c hdim)]
    exact ⟨hseed.raise _, rfl, Memory.read_ofBytes bytes, rfl, rfl, rfl, rfl, hconf.raise _⟩
  · next hdim =>
    simp only [not_or, Nat.not_le] at hdim
    obtain ⟨hw, hh, hfit⟩ := hdim
    split
    · next hc =>
      rw [startedCore_of_checkConfig_none cs bytes ((checkConfig_none_iff _ w h c).mpr ⟨hw, hh, hfit, hc⟩)]
      exact ⟨hseed.enterDecode w h c cs, rfl, Memory.read_ofBytes bytes, rfl, rfl, rfl, rfl,
        configured_enterDecode 0 w h c cs _⟩
    · next hc =>
      rw [startedCore_of_checkConfig_some cs bytes (checkConfig_of_illegal_channels hw hh hfit hc)]
      exact ⟨hseed.raise _, rfl, Memory.read_ofBytes bytes, rfl, rfl, rfl, rfl, hconf.raise _⟩

/-- Settles O45. -/
theorem hardwareResetFromAnyState : Obligations.HardwareResetFromAnyState := by
  intro s hr
  exact ⟨_, step_of_request hr, seeded_initial s.cfg s.input, unconfigured_initial s.cfg s.input, rfl, rfl, rfl,
    rfl, rfl⟩

/-- Settles O46. -/
theorem startWhileBusyIsRefused : Obligations.StartWhileBusyIsRefused := by
  intro s m hr hm hf
  have hbusy := (busy_eq_true_iff s).mpr hf
  rw [step_of_request hr]
  cases m with
  | hardwareReset => exact absurd rfl hm
  | startFile bytes => exact startAllowed_of_busy hbusy _ _
  | startCore w h c cs bytes => exact startAllowed_of_busy hbusy _ _

/-- Settles O47: neither the permission nor the started state looks at more than the parameters. -/
theorem startForgetsThePast : Obligations.StartForgetsThePast := by
  intro s u m hs hu hm hcfg hsf huf
  have hsb := (busy_eq_false_iff s).mpr hsf
  have hub := (busy_eq_false_iff u).mpr huf
  rw [step_of_request hs, step_of_request hu]
  cases m with
  | hardwareReset => exact absurd rfl hm
  | startFile bytes =>
    simp only [hostMove, startAllowed_of_not_busy hsb, startAllowed_of_not_busy hub, hcfg]
  | startCore w h c cs bytes =>
    simp only [hostMove, startAllowed_of_not_busy hsb, startAllowed_of_not_busy hub, hcfg]

/-! ### Reset and the ports -/

/-- Settles O50: the reset state is `initial` of the spec's parameters with nothing bound. -/
theorem resetState : Obligations.ResetState :=
  ⟨seeded_initial Config.specValues ⟨[], 0⟩, unconfigured_initial Config.specValues ⟨[], 0⟩, rfl, rfl, rfl, rfl⟩

/-- Settles O49: a byte of IN exists exactly below N. -/
theorem windowPortsAreExclusive : Obligations.WindowPortsAreExclusive := by
  intro s j
  by_cases hlt : s.pos + j < s.input.size
  · simp [inAvail, inEos, inData, Memory.read_eq_some hlt, hlt]
  · simp [inAvail, inEos, inData, Memory.read_eq_none (Nat.not_lt.mp hlt), hlt, Nat.not_lt.mp hlt]

end Sys2Proof
end
